-- ==== Sys2Proof/Word.lean ====
section
/-! DEFINITION. The two word types of the engine (00_scope.md R11, 10_state.md R31): a byte, and the 16-bit
value of a register or a two-byte operand. Every value of the engine is unsigned (R11). -/

namespace Sys2Proof

/-- A byte is 8 bits, 0..255 (00_scope.md R11). -/
abbrev Byte := BitVec 8

/-- A 16-bit value: a register of the register view (10_state.md R31), an RX field (R26), a 16-bit operand (30_encoding.md R79). -/
abbrev Word := BitVec 16

end Sys2Proof
end

