-- ==== Sys2Proof/Config.lean ====
section
/-! DEFINITION. The parameter record that names an instance of the engine (00_scope.md R3, R9) and the fixed
constants of the wire format (R10). Nothing here is left free: the spec is deterministic (R18), so the model has no
opaque value. -/

namespace Sys2Proof

/-- The parameters of one instance of the engine (00_scope.md R9; 92_eei_decisions.md "Parameters left open").
`RING_USABLE` is derived (C − 1), so it is no field. -/
structure Params where
  /-- RING_CAPACITY, written C: the number of slots of the ring store. -/
  ringCapacity : Nat
  /-- NUM_CHANNELS: CONFIGURE refuses a channel id that is not below it. -/
  numChannels : Nat
  /-- MAX_PAYLOAD: the number of bytes of the payload store. -/
  maxPayload : Nat
deriving DecidableEq, Repr

/-- The values for this hardware (00_scope.md R9). -/
def Params.thisHardware : Params :=
  { ringCapacity := 2048, numChannels := 10, maxPayload := 32767 }

/-- The legal range of every parameter (00_scope.md R9). -/
abbrev Params.legal (p : Params) : Prop :=
  (2 ≤ p.ringCapacity ∧ p.ringCapacity ≤ 32768) ∧ (1 ≤ p.numChannels ∧ p.numChannels ≤ 256) ∧ p.maxPayload ≤ 32767

/-- MAX_MARKER_LEN, fixed (00_scope.md R9). -/
abbrev maxMarkerLen : Nat := 8

/-- VARINT_MAX, fixed (00_scope.md R9, R10): the largest value the codec expresses. -/
abbrev varintMax : Nat := 32767

/-- VARINT_SHORT_LIMIT, fixed (00_scope.md R9, R10): values below it take one byte. -/
abbrev varintShortLimit : Nat := 128

/-- CS_WIDE_LIMIT, fixed (00_scope.md R9, R10): payloads at least this long carry a two-byte checksum. -/
abbrev csWideLimit : Nat := 32

end Sys2Proof
end

