-- ==== Sys2Proof/Syntax.lean ====
section
/-! DEFINITION. The host commands as syntax: one constructor of `Instr` per row of spec/opcode_table.json
(30_encoding.md R80 to R85). The illegal opcode bytes (R86) are no row of the table and no `Instr`; the decoder
answers them under a name of their own. -/

namespace Sys2Proof

/-- The width in which the decoder expects a varint field (00_scope.md R16, 10_state.md R22). -/
inductive Form where
  /-- ONE, encoded 0: a one-byte varint. -/
  | one
  /-- TWO, encoded 1: a two-byte varint. -/
  | two
deriving DecidableEq, Repr

/-- A host command with its operands (30_encoding.md R72). The lengths COUNT, LEN and MLEN are the lengths of the
lists; that they fit their fields is `Instr.wf`. -/
inductive Instr where
  /-- CONFIGURE, opcode 0x01, format CFG (R80): CHAN_ID; FLAGS bit 4 (LF), bit 5 (TF) and the reserved bits 7:6;
  the MLEN marker bytes MK. -/
  | configure (chanId : Byte) (lenForm typeForm : Form) (reserved : BitVec 2) (marker : List Byte)
  /-- RECEIVE, opcode 0x02, format RX (R81): the COUNT bytes of the burst. -/
  | receive (data : List Byte)
  /-- SEND, opcode 0x03, format TX (R82): TYPE and the LEN bytes of the payload. -/
  | send (type : Word) (payload : List Byte)
  /-- RESYNC, opcode 0x04, format OP (R83). -/
  | resync
  /-- READ_REG, opcode 0x05, format REG (R83): REGNUM. -/
  | readReg (regnum : Byte)
  /-- CLEAR_STATUS, opcode 0x06, format OP (R83). -/
  | clearStatus
deriving DecidableEq, Repr

end Sys2Proof
end

