-- ==== Sys2Proof/WellFormed.lean ====
section
/-! DEFINITION. Which `Instr` terms the command encoding can spell: each list's length fits the field that carries it
(30_encoding.md R72). A command the engine refuses (a bad marker length, reserved FLAGS bits, a type out of range) is
well formed: it has bytes, and its refusal is its meaning (R77, R87). -/

namespace Sys2Proof

/-- The lengths fit their fields: MLEN is FLAGS[3:0], COUNT and LEN are 16 bits (30_encoding.md R72). -/
def Instr.wf : Instr → Bool
  | .configure _ _ _ _ marker => decide (marker.length ≤ 15)
  | .receive data => decide (data.length ≤ 65535)
  | .send _ payload => decide (payload.length ≤ 65535)
  | .resync => true
  | .readReg _ => true
  | .clearStatus => true

end Sys2Proof
end

