-- ==== Sys2Proof/Decode.lean ====
section
/-! DEFINITION. The command stream's decoder, total on any bytes, and after it the encoder (30_encoding.md R71, R72,
R77 to R87), with the byte-order helpers both use (20_memory.md R55, 30_encoding.md R84). -/

namespace Sys2Proof

/-! ## Byte order and bit fields -/

/-- `u16(lo, hi) = lo + 256·hi` (30_encoding.md R84): `hi` is the high byte. -/
def u16 (lo hi : Byte) : Word := hi ++ lo

/-- Bits 7:0 of a 16-bit value, the byte that is sent first (20_memory.md R55). -/
def loByte (w : Word) : Byte := w.extractLsb' 0 8

/-- Bits 15:8 of a 16-bit value (20_memory.md R55). -/
def hiByte (w : Word) : Byte := w.extractLsb' 8 8

/-- The bit that encodes a form: 0 = ONE, 1 = TWO (10_state.md R22, 30_encoding.md R72). -/
def Form.bit : Form → BitVec 1
  | .one => 0#1
  | .two => 1#1

/-- The form a bit encodes (30_encoding.md R72). -/
def Form.ofBit (b : Bool) : Form := if b then .two else .one

/-- FLAGS[3:0], the field MLEN (30_encoding.md R72). -/
def flagsMlen (flags : Byte) : BitVec 4 := flags.extractLsb' 0 4

/-- FLAGS[4], the field LF (30_encoding.md R72). -/
def flagsLenForm (flags : Byte) : Form := Form.ofBit (flags.getLsbD 4)

/-- FLAGS[5], the field TF (30_encoding.md R72). -/
def flagsTypeForm (flags : Byte) : Form := Form.ofBit (flags.getLsbD 5)

/-- FLAGS[7:6], reserved (30_encoding.md R72). -/
def flagsReserved (flags : Byte) : BitVec 2 := flags.extractLsb' 6 2

/-- The FLAGS byte of format CFG from its fields (30_encoding.md R72). -/
def flagsByte (mlen : BitVec 4) (lf tf : Form) (reserved : BitVec 2) : Byte :=
  reserved ++ tf.bit ++ lf.bit ++ mlen

/-! ## The opcode map -/

/-- The command formats (30_encoding.md R72). -/
inductive Format where
  | op | cfg | rx | tx | reg
deriving DecidableEq, Repr

/-- The six legal opcodes (30_encoding.md R85). -/
inductive Opcode where
  | configure | receive | send | resync | readReg | clearStatus
deriving DecidableEq, Repr

/-- The opcode byte of each command (30_encoding.md R85). -/
def Opcode.byte : Opcode → Byte
  | .configure => 0x01#8
  | .receive => 0x02#8
  | .send => 0x03#8
  | .resync => 0x04#8
  | .readReg => 0x05#8
  | .clearStatus => 0x06#8

/-- The format of each command (30_encoding.md R85). -/
def Opcode.format : Opcode → Format
  | .configure => .cfg
  | .receive => .rx
  | .send => .tx
  | .resync => .op
  | .readReg => .reg
  | .clearStatus => .op

/-- The opcode a byte stands for: each row of the map matches the whole byte (30_encoding.md R85); 0x00 and
0x07..0xFF are illegal (R86). -/
def Opcode.ofByte (b : Byte) : Option Opcode :=
  if b = 0x01#8 then some .configure
  else if b = 0x02#8 then some .receive
  else if b = 0x03#8 then some .send
  else if b = 0x04#8 then some .resync
  else if b = 0x05#8 then some .readReg
  else if b = 0x06#8 then some .clearStatus
  else none

/-! ## Decoding -/

/-- What the decoder reads at the head of the command stream. -/
inductive Decoded where
  /-- The bytes of the command at the head have not all arrived (30_encoding.md R78); so too for no bytes at all. -/
  | incomplete
  /-- An illegal opcode byte, a one-byte command (R77, R86), and the bytes behind it. -/
  | illegal (opcode : Byte) (rest : List Byte)
  /-- A whole command and the bytes behind it. -/
  | command (i : Instr) (rest : List Byte)
deriving DecidableEq, Repr

/-- The first `n` bytes and the rest, where there are that many. -/
def takeBytes (n : Nat) (bs : List Byte) : Option (List Byte × List Byte) :=
  if n ≤ bs.length then some (bs.take n, bs.drop n) else none

/-- The operands of format CFG (30_encoding.md R72): the MLEN marker bytes are consumed whatever MLEN is (R77, R87). -/
def decodeConfigure : List Byte → Decoded
  | chan :: flags :: bs =>
    match takeBytes (flagsMlen flags).toNat bs with
    | some (mk, rest) =>
      .command (.configure chan (flagsLenForm flags) (flagsTypeForm flags) (flagsReserved flags) mk) rest
    | none => .incomplete
  | _ => .incomplete

/-- The operands of format RX (30_encoding.md R72). -/
def decodeReceive : List Byte → Decoded
  | countLo :: countHi :: bs =>
    match takeBytes (u16 countLo countHi).toNat bs with
    | some (data, rest) => .command (.receive data) rest
    | none => .incomplete
  | _ => .incomplete

/-- The operands of format TX (30_encoding.md R72): a payload of any LEN is consumed, legal or not (R77). -/
def decodeSend : List Byte → Decoded
  | typeLo :: typeHi :: lenLo :: lenHi :: bs =>
    match takeBytes (u16 lenLo lenHi).toNat bs with
    | some (payload, rest) => .command (.send (u16 typeLo typeHi) payload) rest
    | none => .incomplete
  | _ => .incomplete

/-- The operand of format REG (30_encoding.md R72). -/
def decodeReadReg : List Byte → Decoded
  | regnum :: rest => .command (.readReg regnum) rest
  | [] => .incomplete

/-- The command at the head of a byte stream (30_encoding.md R71, R77). -/
def decode : List Byte → Decoded
  | [] => .incomplete
  | op :: bs =>
    match Opcode.ofByte op with
    | none => .illegal op bs
    | some .configure => decodeConfigure bs
    | some .receive => decodeReceive bs
    | some .send => decodeSend bs
    | some .resync => .command .resync bs
    | some .readReg => decodeReadReg bs
    | some .clearStatus => .command .clearStatus bs

/-- The length rule of the command stream (30_encoding.md R77): the length of the command at the head, in bytes, as
soon as the bytes that give it have arrived. Written from R77 and apart from `decode`. -/
def commandLength : List Byte → Option Nat
  | [] => none
  | op :: bs =>
    match Opcode.ofByte op with
    | none => some 1
    | some o =>
      match o.format, bs with
      | .op, _ => some 1
      | .cfg, _ :: flags :: _ => some (3 + (flagsMlen flags).toNat)
      | .rx, lo :: hi :: _ => some (3 + (u16 lo hi).toNat)
      | .tx, _ :: _ :: lo :: hi :: _ => some (5 + (u16 lo hi).toNat)
      | .reg, _ => some 2
      | .cfg, _ => none
      | .rx, _ => none
      | .tx, _ => none

/-! ## Encoding -/

/-- The opcode of a command (30_encoding.md R80 to R83). -/
def Instr.opcode : Instr → Opcode
  | .configure .. => .configure
  | .receive .. => .receive
  | .send .. => .send
  | .resync => .resync
  | .readReg .. => .readReg
  | .clearStatus => .clearStatus

/-- A list's length as the two bytes of a 16-bit operand, low byte first (20_memory.md R55). -/
def lengthBytes (bs : List Byte) : List Byte :=
  [loByte (BitVec.ofNat 16 bs.length), hiByte (BitVec.ofNat 16 bs.length)]

/-- The operand bytes of a command, in the order of its format (30_encoding.md R72). -/
def Instr.operandBytes : Instr → List Byte
  | .configure chan lf tf rsv mk => [chan, flagsByte (BitVec.ofNat 4 mk.length) lf tf rsv] ++ mk
  | .receive data => lengthBytes data ++ data
  | .send type payload => [loByte type, hiByte type] ++ lengthBytes payload ++ payload
  | .resync => []
  | .readReg regnum => [regnum]
  | .clearStatus => []

/-- The bytes of a command on the command port (30_encoding.md R71, R72). -/
def encode (i : Instr) : List Byte := i.opcode.byte :: i.operandBytes

/-! ## The opcode table's numbering -/

/-- The low `k` bytes of a number, least significant first: byte 0 of a command is bits 7:0 of the table's word. -/
def leBytes : Nat → Nat → List Byte
  | 0, _ => []
  | k + 1, w => BitVec.ofNat 8 w :: leBytes k (w / 256)

/-- The bytes of the command whose first `nbits` bits are `w` and whose every other bit is 0, to the length R77 gives it. -/
def tableBytes (nbits w : Nat) : List Byte :=
  let head := leBytes ((nbits + 7) / 8) w
  match commandLength (head ++ List.replicate 4 0#8) with
  | some n => head ++ List.replicate (n - head.length) 0#8
  | none => head

/-- The instruction the decoder reads from an opcode-table word. -/
def decodeTableWord (nbits w : Nat) : Option Instr :=
  match decode (tableBytes nbits w) with
  | .command i _ => some i
  | .illegal _ _ => none
  | .incomplete => none

end Sys2Proof
end

