-- ==== Sys2Proof/Machine/State.lean ====
section
/-! DEFINITION. The state of one engine, grouped as 10_state.md R20 lists it, with the parameter record that names the
instance (00_scope.md R9) and the ports of 30_encoding.md R70; why a step may stop; and the state after reset. Plain
data throughout. -/

namespace Sys2Proof.Machine

/-- A byte store as the list of its written bytes, in rising order of index (see `Memory.wf`). An index that is not
listed holds no value: the spec gives the stores no reset contents (10_state.md R42, R44). -/
abbrev Memory := List Host.Cell

/-! ## Configuration (10_state.md R22) -/

/-- The configuration state. CONFIGURE and hardware reset write it, and nothing else does (10_state.md R22, R23). -/
structure ChannelConfig where
  /-- CFG_VALID, 1 bit. -/
  valid : Bool
  /-- CHAN_ID, 8 bits. -/
  chanId : Byte
  /-- N, 4 bits: the marker length. -/
  n : BitVec 4
  /-- MARKER[0..7], 8 bits each. -/
  marker : Vector Byte 8
  /-- LEN_FORM, 1 bit. -/
  lenForm : Form
  /-- TYPE_FORM, 1 bit. -/
  typeForm : Form
deriving DecidableEq, Repr

/-- The reset values of the configuration (10_state.md R42). -/
def ChannelConfig.reset : ChannelConfig :=
  { valid := false, chanId := 0, n := 0, marker := #v[0, 0, 0, 0, 0, 0, 0, 0], lenForm := .one, typeForm := .one }

/-! ## Ring buffer (10_state.md R24) -/

/-- The ring store and its two cursors. A cursor's width follows from C, so it is a number; that it stays below C is
part of the model's invariant. -/
structure RingBuffer where
  /-- RING[0..C−1]. -/
  store : Memory
  /-- RD, the read cursor: the oldest unread byte. -/
  rd : Nat
  /-- WR, the write cursor: the next slot to write. -/
  wr : Nat
deriving DecidableEq, Repr

/-- The ring after reset: both cursors 0, contents unspecified (10_state.md R42). -/
def RingBuffer.reset : RingBuffer := { store := [], rd := 0, wr := 0 }

/-! ## Synchronizer (10_state.md R25) -/

/-- SYNC: 0 = HUNTING, 1 = IN_FRAME (10_state.md R25). -/
inductive SyncMode where
  | hunting | inFrame
deriving DecidableEq, Repr

/-- The synchronizer's state. -/
structure Synchronizer where
  /-- SYNC. -/
  mode : SyncMode
  /-- M, 4 bits: the match count. -/
  m : BitVec 4
deriving DecidableEq, Repr

/-- HUNTING with M = 0 (10_state.md R42). -/
def Synchronizer.reset : Synchronizer := { mode := .hunting, m := 0 }

/-! ## Frame-in-progress (10_state.md R26, R27) -/

/-- PHASE, by the names of 10_state.md R27. Value 7 is never written and has no name here. -/
inductive Phase where
  | lenB0 | lenB1 | typeB0 | typeB1 | csB0 | csB1 | payload
deriving DecidableEq, Repr

/-- The frame-in-progress. -/
structure Frame where
  /-- PHASE. -/
  phase : Phase
  /-- RX_LEN. -/
  rxLen : Word
  /-- RX_TYPE. -/
  rxType : Word
  /-- RX_CSX. -/
  rxCsx : Word
  /-- RX_COUNT. -/
  rxCount : Word
deriving DecidableEq, Repr

/-- PHASE = LEN_B0 and every field 0 (10_state.md R42; 45_decoder.md R181). -/
def Frame.reset : Frame := { phase := .lenB0, rxLen := 0, rxType := 0, rxCsx := 0, rxCount := 0 }

/-! ## Sticky flags (10_state.md R29) -/

/-- The three sticky flags. No rule of the engine reads them (10_state.md R29). -/
structure StickyFlags where
  /-- OVF: an OverflowError happened. -/
  ovf : Bool
  /-- HERR: a HeaderError happened. -/
  herr : Bool
  /-- CERR: a ChecksumError happened. -/
  cerr : Bool
deriving DecidableEq, Repr

/-- All flags clear (10_state.md R42). -/
def StickyFlags.reset : StickyFlags := { ovf := false, herr := false, cerr := false }

/-! ## Ports (30_encoding.md R70, R73 to R76) -/

/-- A record of the packet port (30_encoding.md R74). -/
structure Packet where
  chan : Byte
  type : Word
  payload : List Byte
deriving DecidableEq, Repr

/-- The response codes (30_encoding.md R76). -/
inductive ResponseCode where
  | ok | notConfigured | alreadyConfigured | badConfig | rangeError | illegalCommand | badRegister
deriving DecidableEq, Repr

/-- One response (30_encoding.md R75). -/
inductive Response where
  /-- A response of one byte, its code. -/
  | code (c : ResponseCode)
  /-- The answer of a READ_REG that succeeds: OK and the 16-bit register value. -/
  | value (v : Word)
deriving DecidableEq, Repr

/-- One record on an output port. -/
inductive PortEvent where
  /-- A record on the packet port (30_encoding.md R74). -/
  | packet (p : Packet)
  /-- The bytes of one frame on the transmit port (R73). -/
  | tx (bytes : List Byte)
  /-- A response on the response port (R75). -/
  | response (r : Response)
deriving DecidableEq, Repr

/-! ## The state -/

/-- One engine: `params` names the instance (00_scope.md R9); `cfg` to `flags` are the complete engine state of
10_state.md R20; `cmdIn`, `resetLine` and `outputs` are its ports as the model holds them, and no engine state
(10_state.md R30). -/
structure State where
  /-- The parameter record (00_scope.md R9): fixed for an instance, written by nothing. -/
  params : Params
  /-- Configuration (10_state.md R22). -/
  cfg : ChannelConfig
  /-- Ring buffer (10_state.md R24). -/
  ring : RingBuffer
  /-- Synchronizer (10_state.md R25). -/
  sync : Synchronizer
  /-- Frame-in-progress (10_state.md R26). -/
  frame : Frame
  /-- PBUF, the payload store (10_state.md R28). -/
  pbuf : Memory
  /-- Sticky flags (10_state.md R29). -/
  flags : StickyFlags
  /-- The command port (30_encoding.md R70, R78): bytes that have arrived and belong to no executed command. -/
  cmdIn : List Byte
  /-- The reset input (70_reset_and_hazards.md R270; 46_commands.md R203): asserted by the host between commands. -/
  resetLine : Bool
  /-- The records emitted on the three output ports so far, in order of emission (20_memory.md R64). -/
  outputs : List PortEvent
deriving DecidableEq, Repr

/-- The machine right after reset (10_state.md R42, 70_reset_and_hazards.md R270, R271): the parameters of this
hardware, every element at its reset value, no command byte arrived, nothing emitted. -/
def State.reset : State :=
  { params := Params.thisHardware
    cfg := ChannelConfig.reset
    ring := RingBuffer.reset
    sync := Synchronizer.reset
    frame := Frame.reset
    pbuf := []
    flags := StickyFlags.reset
    cmdIn := []
    resetLine := false
    outputs := [] }

/-! ## Why a step may stop -/

/-- The three indexed stores. -/
inductive StoreName where
  | ring | pbuf | marker
deriving DecidableEq, Repr

/-- Faults. None is reachable: each stands where the spec says that no run gets there, and no state that meets the
model's invariant steps to one. -/
inductive Fault where
  /-- EmptyError: RingReadOne on an empty ring (40_ring_buffer.md R105, 60_exceptions.md R246). Raised by
  `State.ringReadOne`; the drain loop never calls it so. Safe. -/
  | emptyError
  /-- A read of a store byte that no rule has written since reset (10_state.md R44 says that no rule does so). Raised
  by `readCell`. Safe. -/
  | unwrittenByte (store : StoreName)
  /-- An access to an index the store does not have (20_memory.md R50; 10_state.md R22 for MARKER). Raised by
  `readCell`, `writeCell` and `State.syncStep`. Safe. -/
  | indexOutOfRange (store : StoreName)
deriving DecidableEq, Repr

/-- Refusals: only that of an instruction without a meaning. -/
inductive Refusal where
  /-- An instruction the model has no meaning for. Raised by no arm of `exec`: every command is modelled. Safe. -/
  | notModelled (mnemonic : String)
deriving DecidableEq, Repr

end Sys2Proof.Machine
end

