-- ==== Sys2Proof/Machine/Flags.lean ====
section
/-! DEFINITION. The sticky flags' setters and their clearer (10_state.md R29, R43). The engine has no arithmetic
condition codes. -/

namespace Sys2Proof.Machine

/-- OVF <- 1 (40_ring_buffer.md R108). -/
def State.setOvf (s : State) : State := { s with flags := { s.flags with ovf := true } }

/-- HERR <- 1 (45_decoder.md R194). -/
def State.setHerr (s : State) : State := { s with flags := { s.flags with herr := true } }

/-- CERR <- 1 (45_decoder.md R195). -/
def State.setCerr (s : State) : State := { s with flags := { s.flags with cerr := true } }

/-- OVF <- 0; HERR <- 0; CERR <- 0 (46_commands.md R204, R224). -/
def State.clearFlags (s : State) : State := { s with flags := { ovf := false, herr := false, cerr := false } }

end Sys2Proof.Machine
end

