-- ==== Sys2Proof/Machine/Ops.lean ====
section
/-! DEFINITION. The named operations the meanings share: the byte stores, the ports, the resets of the frame and of
the channel, the recovery from an error (the engine's only "trap entry", 60_exceptions.md R252), hardware reset, and
the fetch of a command. -/

namespace Sys2Proof.Machine

/-! ## Byte stores (20_memory.md R50, R56) -/

/-- The byte a store holds at an index, if any has been written there. -/
def Memory.read : Memory → Nat → Option Byte
  | [], _ => none
  | (x, w) :: m, a => if a = x then some w else Memory.read m a

/-- Writes one byte, keeping the list in rising order of index. -/
def Memory.write : Memory → Nat → Byte → Memory
  | [], a, v => [(a, v)]
  | (x, w) :: m, a, v =>
    if a < x then (a, v) :: (x, w) :: m
    else if a = x then (a, v) :: m
    else (x, w) :: Memory.write m a v

/-- The canonical form of a store: indices strictly rising. An unlisted index holds no value, so that no entry can
repeat it. -/
abbrev Memory.wf (m : Memory) : Prop := m.Pairwise fun x y => x.1 < y.1

/-- Every listed index lies in the store (20_memory.md R50). -/
abbrev Memory.within (size : Nat) (m : Memory) : Prop := ∀ c ∈ m, c.1 < size

/-- Reads one byte of a store of `size` bytes. -/
def readCell (store : StoreName) (size : Nat) (m : Memory) (i : Nat) : Except Fault Byte :=
  if i < size then
    match m.read i with
    | some b => .ok b
    | none => .error (.unwrittenByte store)
  else .error (.indexOutOfRange store)

/-- Writes one byte of a store of `size` bytes. -/
def writeCell (store : StoreName) (size : Nat) (m : Memory) (i : Nat) (b : Byte) : Except Fault Memory :=
  if i < size then .ok (m.write i b) else .error (.indexOutOfRange store)

/-- The `n` bytes of a store from index `i` on: `MemRead` (00_scope.md R12). -/
def readCells (store : StoreName) (size : Nat) (m : Memory) : Nat → Nat → Except Fault (List Byte)
  | _, 0 => .ok []
  | i, n + 1 =>
    match readCell store size m i with
    | .error f => .error f
    | .ok b =>
      match readCells store size m (i + 1) n with
      | .error f => .error f
      | .ok bs => .ok (b :: bs)

/-- RING[i] as the state holds it. -/
def State.ringByte (s : State) (i : Nat) : Option Byte := s.ring.store.read i

/-- PBUF[i] as the state holds it. -/
def State.pbufByte (s : State) (i : Nat) : Option Byte := s.pbuf.read i

/-! ## Output ports (00_scope.md R12; 30_encoding.md R73 to R75) -/

/-- Appends one record to the output ports. -/
def State.emit (s : State) (e : PortEvent) : State := { s with outputs := s.outputs ++ [e] }

/-- `respond(code)` (00_scope.md R12). -/
def State.respond (s : State) (c : ResponseCode) : State := s.emit (.response (.code c))

/-- `respond(OK, value)` (00_scope.md R12). -/
def State.respondValue (s : State) (v : Word) : State := s.emit (.response (.value v))

/-- `emit_packet` (00_scope.md R12). -/
def State.emitPacket (s : State) (p : Packet) : State := s.emit (.packet p)

/-- `emit_tx` (00_scope.md R12). -/
def State.emitTx (s : State) (bytes : List Byte) : State := s.emit (.tx bytes)

/-! ## Resets of the frame and of the channel -/

/-- RingClear (40_ring_buffer.md R106): both cursors to 0, the store as it is. -/
def State.ringClear (s : State) : State := { s with ring := { s.ring with rd := 0, wr := 0 } }

/-- FrameReset (45_decoder.md R181); PBUF is not cleared. -/
def State.frameReset (s : State) : State :=
  { s with frame := { phase := .lenB0, rxLen := 0, rxType := 0, rxCsx := 0, rxCount := 0 } }

/-- EndFrame (45_decoder.md R197): HUNTING, M = 0, frame reset. -/
def State.endFrame (s : State) : State := { s with sync := { mode := .hunting, m := 0 } }.frameReset

/-- ChannelReset (41_synchronizer.md R128): empty ring, HUNTING, M = 0, frame reset. -/
def State.channelReset (s : State) : State :=
  { s.ringClear with sync := { mode := .hunting, m := 0 } }.frameReset

/-! ## Errors the engine recovers from (60_exceptions.md R240, R252) -/

/-- The errors with a recovery inside RECEIVE (60_exceptions.md R240). AllocationError is never raised (R241),
EmptyError is a fault (R246), RangeError and the command refusals are responses (R243, R247). -/
inductive RecoveredError where
  | overflow | header | checksum
deriving DecidableEq, Repr

/-- Raising an error: its whole recovery. Nothing is saved and control goes nowhere (60_exceptions.md R252), and there
is no return (R253).
OverflowError: ChannelReset, OVF <- 1 (40_ring_buffer.md R108).
HeaderError: HERR <- 1, EndFrame (45_decoder.md R194).
ChecksumError: CERR <- 1, EndFrame (45_decoder.md R195). -/
def State.recover (s : State) : RecoveredError → State
  | .overflow => s.channelReset.setOvf
  | .header => s.setHerr.endFrame
  | .checksum => s.setCerr.endFrame

/-! ## Hardware reset (70_reset_and_hazards.md R270) -/

/-- Hardware reset: every element of the engine state to its value in 10_state.md R42, nothing emitted. The command
port's bytes stay, and the reset input is taken. -/
def State.hardReset (s : State) : State :=
  { s with
    cfg := ChannelConfig.reset
    ring := RingBuffer.reset
    sync := Synchronizer.reset
    frame := Frame.reset
    pbuf := []
    flags := StickyFlags.reset
    resetLine := false }

/-! ## Command fetch (30_encoding.md R71, R78) -/

/-- What stands at the head of the command stream. -/
def State.fetch (s : State) : Decoded := decode s.cmdIn

/-- The state with the command port left at `rest`: the bytes before it are consumed. -/
def State.consumeTo (s : State) (rest : List Byte) : State := { s with cmdIn := rest }

/-- The host's move "issue a command" (46_commands.md R203): its bytes arrive behind those already there. -/
def State.issue (s : State) (bytes : List Byte) : State := { s with cmdIn := s.cmdIn ++ bytes }

/-- The host's move "assert hardware reset" (46_commands.md R203). -/
def State.assertReset (s : State) : State := { s with resetLine := true }

end Sys2Proof.Machine
end

