-- ==== Sys2Proof/Machine/Ring.lean ====
section
/-! DEFINITION. The ring buffer's operations (40_ring_buffer.md R100 to R111). RingClear stands in Ops, beside the
resets that call it. -/

namespace Sys2Proof.Machine

/-- RingCount: `(WR − RD) mod C` (40_ring_buffer.md R102), the remainder non-negative (00_scope.md R11). -/
def State.ringCount (s : State) : Nat :=
  (((s.ring.wr : Int) - (s.ring.rd : Int)) % (s.params.ringCapacity : Int)).toNat

/-- The loop of RingWrite: `RING[(WR + i) mod C] <- bytes[i]`, with `at_` standing for WR + i (40_ring_buffer.md R103, R111). -/
def storeBurst (capacity : Nat) : Nat → List Byte → Memory → Memory
  | _, [], m => m
  | at_, b :: bs, m => storeBurst capacity (at_ + 1) bs (m.write (at_ % capacity) b)

/-- RingWrite (40_ring_buffer.md R103): all or nothing. `none` is FAIL, the OverflowError; its recovery is RECEIVE's. -/
def State.ringWrite (s : State) (bytes : List Byte) : Option State :=
  if s.ringCount + bytes.length > s.params.ringCapacity - 1 then none
  else some { s with
    ring := { s.ring with
      store := storeBurst s.params.ringCapacity s.ring.wr bytes s.ring.store
      wr := (s.ring.wr + bytes.length) % s.params.ringCapacity } }

/-- RingReadOne (40_ring_buffer.md R104): the oldest unread byte. An empty ring is the fault EmptyError (60_exceptions.md R246). -/
def State.ringReadOne (s : State) : Except Fault (Byte × State) :=
  if s.ringCount = 0 then .error .emptyError
  else
    match readCell .ring s.params.ringCapacity s.ring.store s.ring.rd with
    | .error f => .error f
    | .ok b => .ok (b, { s with ring := { s.ring with rd := (s.ring.rd + 1) % s.params.ringCapacity } })

end Sys2Proof.Machine
end

