-- ==== Sys2Proof/Machine/Operands.lean ====
section
/-! DEFINITION. The operand forms of the commands: the register view READ_REG names (10_state.md R31 to R35), the
checks and the marker store of CONFIGURE (46_commands.md R204), and the bytes of what the ports carry (30_encoding.md
R74, R75). -/

namespace Sys2Proof.Machine

/-! ## The register view -/

/-- The registers, by name (10_state.md R32). -/
inductive RegName where
  | status | config | marker01 | marker23 | marker45 | marker67
  | rxLen | rxType | rxCsx | rxCount | ringCount | ringCap | payloadMax
deriving DecidableEq, Repr

/-- The number of a register (10_state.md R32). -/
def RegName.number : RegName → Byte
  | .status => 0x00#8
  | .config => 0x01#8
  | .marker01 => 0x02#8
  | .marker23 => 0x03#8
  | .marker45 => 0x04#8
  | .marker67 => 0x05#8
  | .rxLen => 0x06#8
  | .rxType => 0x07#8
  | .rxCsx => 0x08#8
  | .rxCount => 0x09#8
  | .ringCount => 0x0A#8
  | .ringCap => 0x0B#8
  | .payloadMax => 0x0C#8

/-- Every register. -/
def RegName.all : List RegName :=
  [.status, .config, .marker01, .marker23, .marker45, .marker67, .rxLen, .rxType, .rxCsx, .rxCount, .ringCount, .ringCap,
    .payloadMax]

/-- The register of a number; 0x0D..0xFF are reserved (10_state.md R32). -/
def RegName.ofNumber (r : Byte) : Option RegName := RegName.all.find? fun n => n.number == r

/-- The 3-bit encoding of PHASE (10_state.md R27). -/
def Phase.code : Phase → BitVec 3
  | .lenB0 => 0#3
  | .lenB1 => 1#3
  | .typeB0 => 2#3
  | .typeB1 => 3#3
  | .csB0 => 4#3
  | .csB1 => 5#3
  | .payload => 6#3

/-- The bit that encodes SYNC: 0 = HUNTING, 1 = IN_FRAME (10_state.md R25). -/
def SyncMode.bit : SyncMode → BitVec 1
  | .hunting => 0#1
  | .inFrame => 1#1

/-- STATUS (10_state.md R33), from bit 15 down. -/
def State.statusWord (s : State) : Word :=
  0#4 ++ s.sync.m ++ BitVec.ofBool s.flags.cerr ++ BitVec.ofBool s.flags.herr ++ BitVec.ofBool s.flags.ovf
    ++ s.frame.phase.code ++ s.sync.mode.bit ++ BitVec.ofBool s.cfg.valid

/-- CONFIG (10_state.md R34), from bit 15 down. -/
def State.configWord (s : State) : Word :=
  0#2 ++ s.cfg.typeForm.bit ++ s.cfg.lenForm.bit ++ s.cfg.n ++ s.cfg.chanId

/-- RegValue (10_state.md R32). -/
def State.regValue (s : State) : RegName → Word
  | .status => s.statusWord
  | .config => s.configWord
  | .marker01 => u16 s.cfg.marker[0] s.cfg.marker[1]
  | .marker23 => u16 s.cfg.marker[2] s.cfg.marker[3]
  | .marker45 => u16 s.cfg.marker[4] s.cfg.marker[5]
  | .marker67 => u16 s.cfg.marker[6] s.cfg.marker[7]
  | .rxLen => s.frame.rxLen
  | .rxType => s.frame.rxType
  | .rxCsx => s.frame.rxCsx
  | .rxCount => s.frame.rxCount
  | .ringCount => BitVec.ofNat 16 s.ringCount
  | .ringCap => BitVec.ofNat 16 s.params.ringCapacity
  | .payloadMax => BitVec.ofNat 16 s.params.maxPayload

/-! ## CONFIGURE's operands -/

/-- Are CONFIGURE's operands legal (46_commands.md R204; 30_encoding.md R87)? If not, it answers BAD_CONFIG. -/
def configLegal (p : Params) (chan : Byte) (reserved : BitVec 2) (mk : List Byte) : Bool :=
  decide (chan.toNat < p.numChannels) && decide (mk.length ≠ 0) && decide (mk.length ≤ maxMarkerLen)
    && decide (reserved = 0#2)

/-- `MARKER[i] <- (mk[i] if i < k else 0)` (46_commands.md R204). -/
def padMarker (mk : List Byte) : Vector Byte 8 :=
  #v[mk.getD 0 0, mk.getD 1 0, mk.getD 2 0, mk.getD 3 0, mk.getD 4 0, mk.getD 5 0, mk.getD 6 0, mk.getD 7 0]

/-- The configuration a successful CONFIGURE leaves (46_commands.md R204). -/
def configOf (chan : Byte) (lf tf : Form) (mk : List Byte) : ChannelConfig :=
  { valid := true, chanId := chan, n := BitVec.ofNat 4 mk.length, marker := padMarker mk, lenForm := lf, typeForm := tf }

/-! ## The bytes of the ports -/

/-- The byte of a response code (30_encoding.md R76). -/
def ResponseCode.byte : ResponseCode → Byte
  | .ok => 0x00#8
  | .notConfigured => 0x01#8
  | .alreadyConfigured => 0x02#8
  | .badConfig => 0x03#8
  | .rangeError => 0x04#8
  | .illegalCommand => 0x05#8
  | .badRegister => 0x06#8

/-- A response on the response port (30_encoding.md R75): one byte, or `00 VAL_LO VAL_HI`. -/
def Response.bytes : Response → List Byte
  | .code c => [c.byte]
  | .value v => [0x00#8, loByte v, hiByte v]

/-- A packet record where the port is serialised (30_encoding.md R74). -/
def Packet.bytes (p : Packet) : List Byte :=
  [p.chan, loByte p.type, hiByte p.type] ++ lengthBytes p.payload ++ p.payload

/-- The bytes the response port has carried (30_encoding.md R70, R75). -/
def responseStream : List PortEvent → List Byte
  | [] => []
  | .response r :: es => r.bytes ++ responseStream es
  | .packet _ :: es => responseStream es
  | .tx _ :: es => responseStream es

/-- The bytes the transmit port has carried, with no separator between frames (30_encoding.md R73). -/
def txStream : List PortEvent → List Byte
  | [] => []
  | .tx bytes :: es => bytes ++ txStream es
  | .packet _ :: es => txStream es
  | .response _ :: es => txStream es

/-- The records the packet port has carried (30_encoding.md R74). -/
def packetRecords : List PortEvent → List Packet
  | [] => []
  | .packet p :: es => p :: packetRecords es
  | .tx _ :: es => packetRecords es
  | .response _ :: es => packetRecords es

end Sys2Proof.Machine
end

