-- ==== Sys2Proof/Machine/Checksum.lean ====
section
/-! DEFINITION. The additive checksum (43_checksum.md R160 to R166). Pure functions. -/

namespace Sys2Proof.Machine

/-- The loop of Checksum16 from a running sum: 16-bit addition drops the overflow, with no carry folded back (43_checksum.md R160, R166). -/
def sumFrom : Word → List Byte → Word
  | sum, [] => sum
  | sum, b :: bs => sumFrom (sum + b.setWidth 16) bs

/-- Checksum16 (43_checksum.md R160). -/
def checksum16 (p : List Byte) : Word := sumFrom 0#16 p

/-- CsWidth: the width of the checksum field in bytes (43_checksum.md R161). -/
def csWidth (len : Nat) : Nat := if len = 0 then 0 else if len < csWideLimit then 1 else 2

/-- CsBytes: the bytes of the checksum field (43_checksum.md R162). -/
def csBytes (len : Nat) (sum : Word) : List Byte :=
  if csWidth len = 0 then []
  else if csWidth len = 1 then [loByte sum]
  else [loByte sum, hiByte sum]

/-- CsMatch (43_checksum.md R163): do the received bytes equal CsBytes(L, S)? Its domain is L ≥ 1; a field of width 0 has no bytes to differ. -/
def csMatch (len : Nat) (sum csx : Word) : Bool :=
  if csWidth len = 0 then true
  else if csWidth len = 1 then decide (loByte sum = loByte csx)
  else decide (sum = csx)

end Sys2Proof.Machine
end

