-- ==== Sys2Proof/Machine/Varint.lean ====
section
/-! DEFINITION. The variable-length integer codec (42_varint.md R140 to R150). Pure functions. `none` stands for the
error the rule raises: RangeError on encode, HeaderError on decode. -/

namespace Sys2Proof.Machine

/-- VarintEncode (42_varint.md R141); `none` is RangeError (R142). -/
def varintEncode (v : Word) : Option (List Byte) :=
  if v.toNat < varintShortLimit then some [loByte v]
  else if v.toNat < 32768 then some [loByte ((v - 128#16) &&& 0x7F#16), loByte ((v >>> 7) &&& 0xFF#16)]
  else none

/-- VarintDecodeOne (42_varint.md R145); `none` is HeaderError. -/
def varintDecodeOne (b : Byte) : Option Word :=
  if b.getLsbD 7 then none else some (b.setWidth 16)

/-- VarintDecodeTwo_first (42_varint.md R146): the partial value after byte 0; `none` is HeaderError. -/
def varintDecodeTwoFirst (b0 : Byte) : Option Word :=
  if b0.getLsbD 7 then none else some (b0.setWidth 16)

/-- VarintDecodeTwo_second (42_varint.md R146): the value after byte 1; `none` is HeaderError. -/
def varintDecodeTwoSecond (partialValue : Word) (b1 : Byte) : Option Word :=
  if b1 = 0#8 then none else some (partialValue + 128#16 * b1.setWidth 16)

/-- VarintDecodeTwo on both bytes (42_varint.md R146). -/
def varintDecodeTwo (b0 b1 : Byte) : Option Word :=
  match varintDecodeTwoFirst b0 with
  | none => none
  | some p => varintDecodeTwoSecond p b1

/-- The form the encoder picks for a value (42_varint.md R148): one byte exactly when v < 128. -/
def formOfValue (v : Nat) : Form := if v < varintShortLimit then .one else .two

end Sys2Proof.Machine
end

