-- ==== Sys2Proof/Machine/PacketEncoder.lean ====
section
/-! DEFINITION. The packet encoder (44_encoder.md R170 to R176; the wire format is 30_encoding.md R89). Pure: it reads N and MARKER and nothing else (R173). -/

namespace Sys2Proof.Machine

/-- MARKER[0..N) (30_encoding.md R94). -/
def ChannelConfig.markerBytes (c : ChannelConfig) : List Byte := c.marker.toList.take c.n.toNat

/-- Header (44_encoder.md R172): varint(L), varint(T), checksum bytes. `none` where a value is out of the codec's range. -/
def header (len : Nat) (type sum : Word) : Option (List Byte) :=
  match varintEncode (BitVec.ofNat 16 len), varintEncode type with
  | some l, some t => some (l ++ t ++ csBytes len sum)
  | _, _ => none

/-- The part of a frame behind its marker: Header(L, T, S) ++ p (44_encoder.md R170, R172). -/
def frameBody (type : Word) (p : List Byte) : Option (List Byte) :=
  match header p.length type (checksum16 p) with
  | some h => some (h ++ p)
  | none => none

/-- EncodeFrame (44_encoder.md R170); `none` is RangeError (R171), and then no byte is emitted. -/
def encodeFrame (c : ChannelConfig) (type : Word) (p : List Byte) : Option (List Byte) :=
  if p.length > varintMax ∨ type.toNat > varintMax then none
  else
    match frameBody type p with
    | some body => some (c.markerBytes ++ body)
    | none => none

end Sys2Proof.Machine
end

