-- ==== Sys2Proof/Machine/PacketDecoder.lean ====
section
/-! DEFINITION. The packet decoder: the phase handlers and the continuations of 45_decoder.md R180 to R197, one
definition each. -/

namespace Sys2Proof.Machine

/-- PHASE <- p. -/
def State.setPhase (s : State) (p : Phase) : State := { s with frame := { s.frame with phase := p } }

/-- HeaderFail (45_decoder.md R194): the HeaderError and its recovery. -/
def State.headerFail (s : State) : State := s.recover .header

/-- ChecksumFail (45_decoder.md R195): the ChecksumError and its recovery. -/
def State.checksumFail (s : State) : State := s.recover .checksum

/-- `MemRead(PBUF, 0, RX_LEN)` (45_decoder.md R191, R192). -/
def State.receivedPayload (s : State) : Except Fault (List Byte) :=
  readCells .pbuf s.params.maxPayload s.pbuf 0 s.frame.rxLen.toNat

/-- Deliver (45_decoder.md R192): emit the packet, end the frame. -/
def State.deliver (s : State) : Except Fault State :=
  match s.receivedPayload with
  | .error f => .error f
  | .ok p => .ok (s.emitPacket { chan := s.cfg.chanId, type := s.frame.rxType, payload := p }).endFrame

/-- Complete (45_decoder.md R191): sum the payload and compare. -/
def State.complete (s : State) : Except Fault State :=
  match s.receivedPayload with
  | .error f => .error f
  | .ok p =>
    if csMatch s.frame.rxLen.toNat (checksum16 p) s.frame.rxCsx then s.deliver
    else .ok s.checksumFail

/-- LenDone (45_decoder.md R185). -/
def State.lenDone (s : State) : State :=
  if s.frame.rxLen.toNat > s.params.maxPayload then s.headerFail else s.setPhase .typeB0

/-- TypeDone (45_decoder.md R188). -/
def State.typeDone (s : State) : Except Fault State :=
  if s.frame.rxLen = 0#16 then s.deliver else .ok (s.setPhase .csB0)

/-- step_LEN_B0 (45_decoder.md R183). -/
def State.stepLenB0 (s : State) (b : Byte) : State :=
  match s.cfg.lenForm with
  | .one =>
    match varintDecodeOne b with
    | none => s.headerFail
    | some v => { s with frame := { s.frame with rxLen := v } }.lenDone
  | .two =>
    match varintDecodeTwoFirst b with
    | none => s.headerFail
    | some v => { s with frame := { s.frame with rxLen := v } }.setPhase .lenB1

/-- step_LEN_B1 (45_decoder.md R184). -/
def State.stepLenB1 (s : State) (b : Byte) : State :=
  match varintDecodeTwoSecond s.frame.rxLen b with
  | none => s.headerFail
  | some v => { s with frame := { s.frame with rxLen := v } }.lenDone

/-- step_TYPE_B0 (45_decoder.md R186). -/
def State.stepTypeB0 (s : State) (b : Byte) : Except Fault State :=
  match s.cfg.typeForm with
  | .one =>
    match varintDecodeOne b with
    | none => .ok s.headerFail
    | some v => { s with frame := { s.frame with rxType := v } }.typeDone
  | .two =>
    match varintDecodeTwoFirst b with
    | none => .ok s.headerFail
    | some v => .ok ({ s with frame := { s.frame with rxType := v } }.setPhase .typeB1)

/-- step_TYPE_B1 (45_decoder.md R187). -/
def State.stepTypeB1 (s : State) (b : Byte) : Except Fault State :=
  match varintDecodeTwoSecond s.frame.rxType b with
  | none => .ok s.headerFail
  | some v => { s with frame := { s.frame with rxType := v } }.typeDone

/-- step_CS_B0 (45_decoder.md R189). -/
def State.stepCsB0 (s : State) (b : Byte) : State :=
  { s with frame := { s.frame with rxCsx := b.setWidth 16 } }.setPhase
    (if csWidth s.frame.rxLen.toNat = 1 then .payload else .csB1)

/-- step_CS_B1 (45_decoder.md R189): low byte first. -/
def State.stepCsB1 (s : State) (b : Byte) : State :=
  { s with frame := { s.frame with rxCsx := s.frame.rxCsx ||| (b.setWidth 16 <<< 8) } }.setPhase .payload

/-- step_PAYLOAD (45_decoder.md R190). -/
def State.stepPayload (s : State) (b : Byte) : Except Fault State :=
  match writeCell .pbuf s.params.maxPayload s.pbuf s.frame.rxCount.toNat b with
  | .error f => .error f
  | .ok m =>
    let s1 : State := { s with pbuf := m, frame := { s.frame with rxCount := s.frame.rxCount + 1 } }
    if s1.frame.rxCount = s1.frame.rxLen then s1.complete else .ok s1

/-- DecodeStep (45_decoder.md R180). -/
def State.decodeStep (s : State) (b : Byte) : Except Fault State :=
  match s.frame.phase with
  | .lenB0 => .ok (s.stepLenB0 b)
  | .lenB1 => .ok (s.stepLenB1 b)
  | .typeB0 => s.stepTypeB0 b
  | .typeB1 => s.stepTypeB1 b
  | .csB0 => .ok (s.stepCsB0 b)
  | .csB1 => .ok (s.stepCsB1 b)
  | .payload => s.stepPayload b

end Sys2Proof.Machine
end

