-- ==== Sys2Proof/Machine/Synchronizer.lean ====
section
/-! DEFINITION. The frame synchronizer (41_synchronizer.md R120 to R132) and the drain loop of RECEIVE (46_commands.md R210). -/

namespace Sys2Proof.Machine

/-- The completion of the marker (41_synchronizer.md R121, R123): IN_FRAME, M = 0, frame reset, and the ring cleared. -/
def State.enterFrame (s : State) : State :=
  { s with sync := { mode := .inFrame, m := 0 } }.frameReset.ringClear

/-- The match count after one byte (41_synchronizer.md R121): the byte continues the match at `expected` = MARKER[M],
or it is tested once more, against MARKER[0] only (the one-byte lookback). -/
def nextMatch (m : BitVec 4) (expected first b : Byte) : BitVec 4 :=
  if b = expected then m + 1 else if b = first then 1 else 0

/-- SyncStep (41_synchronizer.md R121). MARKER has eight bytes: a match count with no MARKER[M] is a fault that no run reaches (R122). -/
def State.syncStep (s : State) (b : Byte) : Except Fault State :=
  match s.cfg.marker[s.sync.m.toNat]? with
  | none => .error (.indexOutOfRange .marker)
  | some expected =>
    if nextMatch s.sync.m expected s.cfg.marker[0] b = s.cfg.n then .ok s.enterFrame
    else .ok { s with sync := { s.sync with m := nextMatch s.sync.m expected s.cfg.marker[0] b } }

/-- ProcessByte (41_synchronizer.md R120). -/
def State.processByte (s : State) (b : Byte) : Except Fault State :=
  match s.sync.mode with
  | .hunting => s.syncStep b
  | .inFrame => s.decodeStep b

/-- The drain loop of RECEIVE (46_commands.md R210): `while RingCount() > 0`. Each pass takes one byte, and a pass may
clear the ring, so as many passes as there are unread bytes are enough (R210, "The loop always ends"). -/
def drain : Nat → State → Except Fault State
  | 0, s => .ok s
  | passes + 1, s =>
    if s.ringCount = 0 then .ok s
    else
      match s.ringReadOne with
      | .error f => .error f
      | .ok (b, s1) =>
        match s1.processByte b with
        | .error f => .error f
        | .ok s2 => drain passes s2

end Sys2Proof.Machine
end

