-- ==== Sys2Proof/Machine/Commands.lean ====
section
/-! DEFINITION. The meanings of the six host commands (46_commands.md R204 to R224) and of an illegal opcode (R226),
one definition each. Every command ends with exactly one response (30_encoding.md R75). -/

namespace Sys2Proof.Machine

/-- The outcome type of a step. -/
abbrev Outcome := Host.Outcome State Fault Refusal

/-- CONFIGURE (46_commands.md R204): ALREADY_CONFIGURED is checked first, then BAD_CONFIG. -/
def execConfigure (chan : Byte) (lf tf : Form) (reserved : BitVec 2) (mk : List Byte) (s : State) : Outcome :=
  if s.cfg.valid then .next (s.respond .alreadyConfigured)
  else if configLegal s.params chan reserved mk then
    .next ({ s with cfg := configOf chan lf tf mk }.channelReset.clearFlags.respond .ok)
  else .next (s.respond .badConfig)

/-- RECEIVE (46_commands.md R210): write the burst, or recover from the overflow; else drain the ring. It answers OK
either way (40_ring_buffer.md R108), and NOT_CONFIGURED while unconfigured (R214). -/
def execReceive (data : List Byte) (s : State) : Outcome :=
  if s.cfg.valid then
    match s.ringWrite data with
    | none => .next ((s.recover .overflow).respond .ok)
    | some s1 =>
      match drain s1.ringCount s1 with
      | .error f => .fault f
      | .ok s2 => .next (s2.respond .ok)
  else .next (s.respond .notConfigured)

/-- SEND (46_commands.md R212): NOT_CONFIGURED is checked first (R214), then the ranges (44_encoder.md R171). -/
def execSend (type : Word) (payload : List Byte) (s : State) : Outcome :=
  if s.cfg.valid then
    match encodeFrame s.cfg type payload with
    | none => .next (s.respond .rangeError)
    | some frame => .next ((s.emitTx frame).respond .ok)
  else .next (s.respond .notConfigured)

/-- RESYNC (46_commands.md R213): the flags are kept. -/
def execResync (s : State) : Outcome :=
  if s.cfg.valid then .next (s.channelReset.respond .ok)
  else .next (s.respond .notConfigured)

/-- READ_REG (46_commands.md R222): no side effect but its response. -/
def execReadReg (regnum : Byte) (s : State) : Outcome :=
  match RegName.ofNumber regnum with
  | none => .next (s.respond .badRegister)
  | some r => .next (s.respondValue (s.regValue r))

/-- CLEAR_STATUS (46_commands.md R224). -/
def execClearStatus (s : State) : Outcome := .next (s.clearFlags.respond .ok)

/-- An illegal opcode byte (46_commands.md R226): ILLEGAL_COMMAND whichever byte it is, no state change. -/
def execIllegal (_opcode : Byte) (s : State) : Outcome := .next (s.respond .illegalCommand)

end Sys2Proof.Machine
end

