-- ==== Sys2Proof/Machine/Dispatch.lean ====
section
/-! DEFINITION. One arm per constructor of `Instr`, each a direct call of its meaning. -/

namespace Sys2Proof.Machine

def exec (i : Instr) (s : State) : Host.Outcome State Fault Refusal :=
  match i with
  | .configure chan lf tf reserved mk => Sys2Proof.Machine.execConfigure chan lf tf reserved mk s
  | .receive data => Sys2Proof.Machine.execReceive data s
  | .send type payload => Sys2Proof.Machine.execSend type payload s
  | .resync => Sys2Proof.Machine.execResync s
  | .readReg regnum => Sys2Proof.Machine.execReadReg regnum s
  | .clearStatus => Sys2Proof.Machine.execClearStatus s

end Sys2Proof.Machine
end

