-- ==== Sys2Proof/Machine/Step.lean ====
section
/-! DEFINITION. One step of the engine. It fetches nothing at a program counter (10_state.md R21): commands arrive on
the command port, and a step runs the one at its head. -/

namespace Sys2Proof.Machine

/-- One step. A reset the host has asserted is taken first, between commands (70_reset_and_hazards.md R270). Else the
command at the head of the command port is consumed whole and runs as one atomic transition (46_commands.md R200); an
illegal opcode byte is a command of its own (R226). While the command there is incomplete, or none has arrived, the
engine holds the bytes and changes nothing (30_encoding.md R78, 70_reset_and_hazards.md R271). -/
def step (s : State) : Host.Outcome State Fault Refusal :=
  if s.resetLine then .next s.hardReset
  else
    match s.fetch with
    | .incomplete => .next s
    | .illegal opcode rest => execIllegal opcode (s.consumeTo rest)
    | .command i rest => exec i (s.consumeTo rest)

/-- `s` with exactly the command of an opcode-table word on its command port, and no reset asserted: the very next step
runs it. -/
def State.withFetchWord (s : State) (nbits w : Nat) : State :=
  { s with cmdIn := tableBytes nbits w, resetLine := false }

end Sys2Proof.Machine
end

