-- ==== Sys2Proof/Machine/Assembler.lean ====
section
/-! DEFINITION. The assembler syntax (30_encoding.md R96, R97) as abstract syntax, and the command bytes each line
spells. Spelling of numbers, spacing and comments is text and no part of the machine. -/

namespace Sys2Proof.Machine

/-- One item of a data list (30_encoding.md R96). -/
inductive DataItem where
  /-- A two-digit hexadecimal byte. -/
  | byte (b : Byte)
  /-- `fill(k, hh)`: k copies of the byte hh. -/
  | fill (k : Nat) (b : Byte)
deriving DecidableEq, Repr

/-- The bytes of a data list (30_encoding.md R96). -/
def dataBytes : List DataItem → List Byte
  | [] => []
  | .byte b :: items => b :: dataBytes items
  | .fill k b :: items => List.replicate k b ++ dataBytes items

/-- A line of assembler text (30_encoding.md R96, R97). -/
inductive AsmLine where
  /-- `CONFIGURE chan=, len=, type=, marker=`: the reserved FLAGS bits are 0. -/
  | configure (chan : Byte) (lenForm typeForm : Form) (marker : List DataItem)
  | receive (data : List DataItem)
  | send (type : Word) (data : List DataItem)
  | resync
  /-- `READ_REG` by register name. -/
  | readRegNamed (name : RegName)
  /-- `READ_REG` by number. -/
  | readReg (regnum : Byte)
  | clearStatus
  /-- `.byte`: raw command-stream bytes. -/
  | bytes (data : List DataItem)
  /-- The pseudo-instruction `RECEIVE_EACH` (R97). -/
  | receiveEach (data : List DataItem)
deriving DecidableEq, Repr

/-- `RECEIVE_EACH` expands to one one-byte RECEIVE per byte, in order (30_encoding.md R97). -/
def receiveEach (bs : List Byte) : List Instr := bs.map fun b => .receive [b]

/-- The command-stream bytes of a line (30_encoding.md R96: each command in the format of R72). -/
def assemble : AsmLine → List Byte
  | .configure chan lf tf mk => encode (.configure chan lf tf 0#2 (dataBytes mk))
  | .receive data => encode (.receive (dataBytes data))
  | .send type data => encode (.send type (dataBytes data))
  | .resync => encode .resync
  | .readRegNamed name => encode (.readReg name.number)
  | .readReg regnum => encode (.readReg regnum)
  | .clearStatus => encode .clearStatus
  | .bytes data => dataBytes data
  | .receiveEach data => (receiveEach (dataBytes data)).flatMap encode

end Sys2Proof.Machine
end

