-- ==== Sys2Proof/Machine/System.lean ====
section
/-! DEFINITION. Several channels are several engines, each with the whole state of one (60_exceptions.md R262,
20_memory.md R69). Which engine a command goes to is the Channel Registry's business, outside the block (00_scope.md
R6): here the index is given. -/

namespace Sys2Proof.Machine

/-- A command addressed to engine `k` of a system of engines runs on that engine's state (60_exceptions.md R262). -/
def execOn (sys : List State) (k : Fin sys.length) (i : Instr) : Host.Outcome (List State) Fault Refusal :=
  match exec i (sys.get k) with
  | .next t => .next (sys.set k.val t)
  | .fault f => .fault f
  | .refused r => .refused r

end Sys2Proof.Machine
end

