-- ==== Sys2Proof/Safety.lean ====
section
/-! DEFINITION. The terms claims are made in: the invariants of 10_state.md R36 to R41 and the model's invariant built
on them, the states a host can bring about, runs of commands, RECEIVE's bytes taken without the ring, the wire format
in plain arithmetic, and what two engines that differ only in dead state share. -/

namespace Sys2Proof.Machine

/-! ## The invariants of 10_state.md section 8 -/

/-- An unconfigured engine stays at reset values, but for the contents of the stores and the values of the cursors,
which are equal (10_state.md R36). -/
def State.UnconfiguredAtReset (s : State) : Prop :=
  s.cfg.valid = false →
    s.cfg = ChannelConfig.reset ∧ s.sync = Synchronizer.reset ∧ s.frame = Frame.reset ∧
      s.flags = StickyFlags.reset ∧ s.ring.rd = s.ring.wr

/-- The configuration of a configured engine is in range (10_state.md R37). -/
def State.ConfigInRange (s : State) : Prop :=
  s.cfg.valid = true →
    1 ≤ s.cfg.n.toNat ∧ s.cfg.n.toNat ≤ 8 ∧ s.cfg.chanId.toNat < s.params.numChannels ∧
      (s.sync.mode = .hunting → s.sync.m.toNat < s.cfg.n.toNat)

/-- M = 0 while IN_FRAME (10_state.md R38). -/
def State.InFrameMatchZero (s : State) : Prop := s.sync.mode = .inFrame → s.sync.m = 0

/-- The frame-in-progress is idle while HUNTING (10_state.md R39). -/
def State.HuntingFrameIdle (s : State) : Prop := s.sync.mode = .hunting → s.frame = Frame.reset

/-- A value a varint field of this form can carry (42_varint.md R147). -/
def fitsForm : Form → Word → Prop
  | .one, v => v.toNat ≤ 127
  | .two, v => 128 ≤ v.toNat ∧ v.toNat ≤ 32767

/-- The shape of the frame-in-progress while IN_FRAME (10_state.md R40). -/
def State.FrameShape (s : State) : Prop :=
  s.sync.mode = .inFrame →
    (s.frame.phase = .lenB1 → s.cfg.lenForm = .two) ∧
    (s.frame.phase = .typeB1 → s.cfg.typeForm = .two) ∧
    (Phase.typeB0.code ≤ s.frame.phase.code →
      s.frame.rxLen.toNat ≤ s.params.maxPayload ∧ fitsForm s.cfg.lenForm s.frame.rxLen) ∧
    (Phase.csB0.code ≤ s.frame.phase.code → 1 ≤ s.frame.rxLen.toNat) ∧
    (s.frame.phase = .csB1 → 32 ≤ s.frame.rxLen.toNat) ∧
    (s.frame.phase = .payload → s.frame.rxCount.toNat < s.frame.rxLen.toNat) ∧
    (s.frame.phase.code < Phase.payload.code → s.frame.rxCount = 0)

/-- The ring is empty between commands (10_state.md R41). -/
def State.RingDrained (s : State) : Prop := s.ringCount = 0

/-! ## The model's invariant -/

/-- DEDUCED from 45_decoder.md R183 to R190: what the fields of a frame in progress hold before and while they fill. R40
needs it to be kept by a step: a two-byte length is in range only if its first byte was. -/
def State.FieldsAsReceived (s : State) : Prop :=
  s.sync.mode = .inFrame →
    (s.frame.phase = .lenB0 → s.frame.rxLen = 0) ∧
    (s.frame.phase = .lenB1 → s.frame.rxLen.toNat ≤ 127) ∧
    (s.frame.phase.code ≤ Phase.typeB0.code → s.frame.rxType = 0) ∧
    (s.frame.phase = .typeB1 → s.frame.rxType.toNat ≤ 127) ∧
    (Phase.csB0.code ≤ s.frame.phase.code → fitsForm s.cfg.typeForm s.frame.rxType) ∧
    (s.frame.phase.code ≤ Phase.csB0.code → s.frame.rxCsx = 0) ∧
    (s.frame.phase = .csB1 → s.frame.rxCsx.toNat ≤ 255) ∧
    (s.frame.phase = .payload → s.frame.rxLen.toNat < 32 → s.frame.rxCsx.toNat ≤ 255)

/-- The invariant every step keeps: R36 to R41, legal parameters (00_scope.md R9), cursors in range (10_state.md R24),
both stores in canonical form and within their sizes (20_memory.md R50), unused marker bytes 0 (10_state.md R22), the
fields of `FieldsAsReceived`, and every payload byte counted so far written (10_state.md R44). -/
structure State.Inv (s : State) : Prop where
  paramsLegal : s.params.legal
  unconfiguredAtReset : s.UnconfiguredAtReset
  configInRange : s.ConfigInRange
  inFrameMatchZero : s.InFrameMatchZero
  huntingFrameIdle : s.HuntingFrameIdle
  frameShape : s.FrameShape
  ringDrained : s.RingDrained
  cursorsInRange : s.ring.rd < s.params.ringCapacity ∧ s.ring.wr < s.params.ringCapacity
  ringWf : Memory.wf s.ring.store
  ringWithin : Memory.within s.params.ringCapacity s.ring.store
  pbufWf : Memory.wf s.pbuf
  pbufWithin : Memory.within s.params.maxPayload s.pbuf
  markerPadded : ∀ (i : Nat) (h : i < 8), s.cfg.n.toNat ≤ i → s.cfg.marker[i] = 0
  fieldsAsReceived : s.FieldsAsReceived
  payloadWritten : ∀ i : Nat, i < s.frame.rxCount.toNat → (s.pbufByte i).isSome = true

/-! ## The states a host can bring about -/

/-- The state after reset of the instance with parameters `p` (00_scope.md R9, 10_state.md R42). -/
def State.initial (p : Params) : State := { State.reset with params := p }

/-- What an engine with legal parameters can come to: from reset, by its own steps and by the host's two moves
(46_commands.md R203), in any order. -/
inductive Reachable : State → Prop where
  | initial (p : Params) (legal : p.legal) : Reachable (State.initial p)
  | step {s t : State} (before : Reachable s) (stepped : Sys2Proof.Machine.step s = .next t) : Reachable t
  | issue {s : State} (before : Reachable s) (bytes : List Byte) : Reachable (s.issue bytes)
  | assertReset {s : State} (before : Reachable s) : Reachable s.assertReset

/-! ## Runs -/

/-- A run: complete commands, one after another (46_commands.md R228). -/
def runCommands : List Instr → State → Host.Outcome State Fault Refusal
  | [], s => .next s
  | i :: is, s =>
    match exec i s with
    | .next t => runCommands is t
    | .fault f => .fault f
    | .refused r => .refused r

/-- A burst's bytes processed one after another, without the ring, up to the byte that completes a marker (46_commands.md
R210, 41_synchronizer.md R123). The Bool says whether a marker was completed. -/
def absorb : List Byte → State → Except Fault (State × Bool)
  | [], s => .ok (s, false)
  | b :: bs, s =>
    match s.processByte b with
    | .error f => .error f
    | .ok t => if s.sync.mode = .hunting ∧ t.sync.mode = .inFrame then .ok (t, true) else absorb bs t

/-! ## The wire format in plain arithmetic (30_encoding.md R89 to R93) -/

/-- The bytes of a varint (30_encoding.md R90, R91): v[6:0], then v[14:7] where v ≥ 128. -/
def wireVarint (v : Nat) : List Byte :=
  if v < 128 then [BitVec.ofNat 8 v] else [BitVec.ofNat 8 (v % 128), BitVec.ofNat 8 (v / 128)]

/-- The sum of the payload bytes modulo 2^16 (43_checksum.md R160). -/
def wireSum (p : List Byte) : Nat := (p.map fun b => b.toNat).sum % 65536

/-- The checksum field (30_encoding.md R89, R93): none, S[7:0], or S[7:0] then S[15:8]. -/
def wireChecksum (p : List Byte) : List Byte :=
  if p.length = 0 then []
  else if p.length < 32 then [BitVec.ofNat 8 (wireSum p % 256)]
  else [BitVec.ofNat 8 (wireSum p % 256), BitVec.ofNat 8 (wireSum p / 256)]

/-- What follows the marker in a frame (30_encoding.md R89). -/
def wireBody (type : Nat) (p : List Byte) : List Byte :=
  wireVarint p.length ++ wireVarint type ++ wireChecksum p ++ p

/-- A frame on the wire (30_encoding.md R89). -/
def wireFrame (marker : List Byte) (type : Nat) (p : List Byte) : List Byte := marker ++ wireBody type p

/-! ## Markers -/

/-- The condition of 41_synchronizer.md R124: no prefix MARKER[0..k) with 2 ≤ k ≤ N − 1 has a non-empty proper border. -/
def MarkerUnbordered (mk : List Byte) : Prop :=
  ∀ k j : Nat, 2 ≤ k → k + 1 ≤ mk.length → 1 ≤ j → j < k → mk.take j ≠ (mk.take k).drop (k - j)

/-! ## What dead state cannot reach -/

/-- Two engines that differ at most in what the spec calls unobservable: the cursor values, the ring's contents, and the
payload store beyond the bytes counted so far (10_state.md R44, R45). -/
structure SameVisible (s t : State) : Prop where
  params : s.params = t.params
  cfg : s.cfg = t.cfg
  sync : s.sync = t.sync
  frame : s.frame = t.frame
  flags : s.flags = t.flags
  cmdIn : s.cmdIn = t.cmdIn
  resetLine : s.resetLine = t.resetLine
  outputs : s.outputs = t.outputs
  payload : ∀ i : Nat, i < s.frame.rxCount.toNat → s.pbufByte i = t.pbufByte i

end Sys2Proof.Machine
end

