-- ==== Sys2Proof/Certificates/Slice0/Obligations.lean ====
section
/-! DEFINITION. The statements for the provers, each with the rule of spec/ it formalises. -/

open Sys2Proof Sys2Proof.Machine

/-! ## Encoding -/

/-- Six words written out from 30_encoding.md R72 and R85, one per opcode, decode to the commands they stand for, and
three illegal bytes are illegal (R86). -/
def Obligations.SampleWordsDecode : Prop :=
  decode [0x01#8, 0x00#8, 0x22#8, 0xAA#8, 0x55#8] = .command (.configure 0x00#8 .one .two 0#2 [0xAA#8, 0x55#8]) [] ∧
  decode [0x02#8, 0x03#8, 0x00#8, 0xAA#8, 0xAA#8, 0x55#8, 0x06#8] =
    .command (.receive [0xAA#8, 0xAA#8, 0x55#8]) [0x06#8] ∧
  decode [0x03#8, 0x01#8, 0x10#8, 0x02#8, 0x00#8, 0x10#8, 0x20#8] = .command (.send 0x1001#16 [0x10#8, 0x20#8]) [] ∧
  decode [0x04#8, 0x05#8, 0x00#8] = .command .resync [0x05#8, 0x00#8] ∧
  decode [0x05#8, 0x0B#8] = .command (.readReg 0x0B#8) [] ∧
  decode [0x06#8] = .command .clearStatus [] ∧
  decode [0x00#8] = .illegal 0x00#8 [] ∧ decode [0x07#8, 0x06#8] = .illegal 0x07#8 [0x06#8] ∧
  decode [0xFF#8] = .illegal 0xFF#8 []

/-- Decoding an encoded well-formed command gives it back, whatever stands behind it on the command port: no operand bit
is dropped (30_encoding.md R71, R72). -/
def Obligations.DecodeOfEncodeGivesCommandBack : Prop :=
  ∀ (i : Instr) (rest : List Byte), i.wf = true → decode (encode i ++ rest) = .command i rest

/-- Each command has one spelling: what the decoder reads is well formed, and encoding it gives the bytes consumed
(30_encoding.md R72). -/
def Obligations.EncodeOfDecodeGivesBytesBack : Prop :=
  ∀ (bs : List Byte) (i : Instr) (rest : List Byte),
    decode bs = .command i rest → i.wf = true ∧ encode i ++ rest = bs

/-- The formats of 30_encoding.md R72, field by field, with the operand assembly of R79: FLAGS[3:0] = MLEN, FLAGS[4] =
LF, FLAGS[5] = TF, FLAGS[7:6] reserved, and each 16-bit operand is lo + 256·hi. -/
def Obligations.FormatsGiveOperands : Prop :=
  ∀ (rest : List Byte),
    (∀ (chan flags : Byte) (mk : List Byte), mk.length = flags.toNat % 16 →
      ∃ (lf tf : Form) (rsv : BitVec 2),
        decode (0x01#8 :: chan :: flags :: (mk ++ rest)) = .command (.configure chan lf tf rsv mk) rest ∧
        (lf = .two ↔ flags.toNat / 16 % 2 = 1) ∧ (tf = .two ↔ flags.toNat / 32 % 2 = 1) ∧
        rsv.toNat = flags.toNat / 64) ∧
    (∀ (lo hi : Byte) (data : List Byte), data.length = lo.toNat + 256 * hi.toNat →
      decode (0x02#8 :: lo :: hi :: (data ++ rest)) = .command (.receive data) rest) ∧
    (∀ (typeLo typeHi lo hi : Byte) (payload : List Byte), payload.length = lo.toNat + 256 * hi.toNat →
      ∃ type : Word, type.toNat = typeLo.toNat + 256 * typeHi.toNat ∧
        decode (0x03#8 :: typeLo :: typeHi :: lo :: hi :: (payload ++ rest)) = .command (.send type payload) rest) ∧
    decode (0x04#8 :: rest) = .command .resync rest ∧
    (∀ regnum : Byte, decode (0x05#8 :: regnum :: rest) = .command (.readReg regnum) rest) ∧
    decode (0x06#8 :: rest) = .command .clearStatus rest

/-- The length rule (30_encoding.md R77): the six cases, and the decoder consumes exactly that many bytes, one for an
illegal opcode, and waits exactly while fewer have arrived. The length is the same for commands that will be refused. -/
def Obligations.DecoderConsumesTheCommandLength : Prop :=
  (∀ (chan flags : Byte) (bs : List Byte), commandLength (0x01#8 :: chan :: flags :: bs) = some (3 + flags.toNat % 16)) ∧
  (∀ (lo hi : Byte) (bs : List Byte), commandLength (0x02#8 :: lo :: hi :: bs) = some (3 + (lo.toNat + 256 * hi.toNat))) ∧
  (∀ (tl th lo hi : Byte) (bs : List Byte),
    commandLength (0x03#8 :: tl :: th :: lo :: hi :: bs) = some (5 + (lo.toNat + 256 * hi.toNat))) ∧
  (∀ bs : List Byte, commandLength (0x05#8 :: bs) = some 2) ∧
  (∀ (op : Byte) (bs : List Byte), op ≠ 0x01#8 → op ≠ 0x02#8 → op ≠ 0x03#8 → op ≠ 0x05#8 →
    commandLength (op :: bs) = some 1) ∧
  ∀ bs : List Byte,
    (∀ (i : Instr) (rest : List Byte), decode bs = .command i rest →
      rest.length ≤ bs.length ∧ commandLength bs = some (bs.length - rest.length)) ∧
    (∀ (op : Byte) (rest : List Byte), decode bs = .illegal op rest → bs = op :: rest ∧ commandLength bs = some 1) ∧
    (decode bs = .incomplete ↔ ∀ n : Nat, commandLength bs = some n → bs.length < n)

/-- The opcode bytes 0x00 and 0x07..0xFF, and only they, are illegal (30_encoding.md R86), and each is a one-byte command
that a step answers with ILLEGAL_COMMAND, changing no other state (46_commands.md R226). -/
def Obligations.IllegalOpcodeAnswersIllegalCommand : Prop :=
  (∀ (op : Byte) (bs : List Byte), decode (op :: bs) = .illegal op bs ↔ (op.toNat = 0 ∨ 7 ≤ op.toNat)) ∧
  ∀ (s : State) (op : Byte) (bs : List Byte), s.resetLine = false → s.cmdIn = op :: bs →
    (op.toNat = 0 ∨ 7 ≤ op.toNat) →
    step s = .next { s with cmdIn := bs, outputs := s.outputs ++ [.response (.code .illegalCommand)] }

/-! ## Steps, waiting, reset -/

/-- A step runs the decoded command: consumed from the command port, then `exec` (46_commands.md R200). -/
def Obligations.StepRunsDecodedCommand : Prop :=
  ∀ (s : State) (i : Instr) (rest : List Byte), s.resetLine = false → decode s.cmdIn = .command i rest →
    step s = exec i { s with cmdIn := rest }

/-- While a command's bytes have not all arrived, the engine holds them and changes no state (30_encoding.md R78); with
no byte at all it waits too (70_reset_and_hazards.md R271). -/
def Obligations.PartialCommandIsHeld : Prop :=
  ∀ (s : State) (i : Instr) (missing : List Byte), i.wf = true → s.resetLine = false → missing ≠ [] →
    encode i = s.cmdIn ++ missing → step s = .next s

/-- A stream of well-formed commands with no separator runs them one after another, as a run of commands does
(30_encoding.md R71, 46_commands.md R200): the bytes behind the last one are left. -/
def Obligations.StreamRunsItsCommandsInOrder : Prop :=
  ∀ (is : List Instr) (s t : State) (rest : List Byte), (∀ i ∈ is, i.wf = true) → s.resetLine = false →
    runCommands is { s with cmdIn := rest } = .next t →
    core.run is.length { s with cmdIn := is.flatMap encode ++ rest } = .next t

/-- The reset values (10_state.md R42), and what every register reads after reset. -/
def Obligations.ResetValues : Prop :=
  State.reset.cfg = { valid := false, chanId := 0, n := 0, marker := #v[0, 0, 0, 0, 0, 0, 0, 0],
                      lenForm := .one, typeForm := .one } ∧
  State.reset.ring.rd = 0 ∧ State.reset.ring.wr = 0 ∧
  State.reset.sync = { mode := .hunting, m := 0 } ∧
  State.reset.frame = { phase := .lenB0, rxLen := 0, rxType := 0, rxCsx := 0, rxCount := 0 } ∧
  State.reset.flags = { ovf := false, herr := false, cerr := false } ∧
  State.reset.regValue .ringCap = 2048 ∧ State.reset.regValue .payloadMax = 32767 ∧
  ∀ r : RegName, r ≠ .ringCap → r ≠ .payloadMax → State.reset.regValue r = 0

/-- An asserted reset is taken by the next step: from any state, every element goes to its value of 10_state.md R42, so
that every register reads 0 but RING_CAP and PAYLOAD_MAX, and nothing is emitted (70_reset_and_hazards.md R270). That the
bytes on the command port stay is the model's choice (log entry 4). -/
def Obligations.AssertedResetIsTakenNext : Prop :=
  ∀ s : State, s.resetLine = true →
    ∃ t : State, step s = .next t ∧
      t.cfg = State.reset.cfg ∧ t.ring.rd = 0 ∧ t.ring.wr = 0 ∧ t.sync = State.reset.sync ∧
      t.frame = State.reset.frame ∧ t.flags = State.reset.flags ∧
      t.params = s.params ∧ t.outputs = s.outputs ∧ t.cmdIn = s.cmdIn ∧ t.resetLine = false ∧
      t.regValue .ringCap = BitVec.ofNat 16 s.params.ringCapacity ∧
      t.regValue .payloadMax = BitVec.ofNat 16 s.params.maxPayload ∧
      ∀ r : RegName, r ≠ .ringCap → r ≠ .payloadMax → t.regValue r = 0

/-! ## The commands -/

/-- CONFIGURE (46_commands.md R204), in every state and for every operand: ALREADY_CONFIGURED first, then BAD_CONFIG, both
with nothing else changed; else the configuration is written, MARKER[i] = 0 for i ≥ k, the channel is reset, the flags are
cleared and the answer is OK. -/
def Obligations.ConfigureWritesOrRefuses : Prop :=
  ∀ (s : State) (chan : Byte) (lf tf : Form) (rsv : BitVec 2) (mk : List Byte),
    let bad : Prop := s.params.numChannels ≤ chan.toNat ∨ mk.length = 0 ∨ 8 < mk.length ∨ rsv ≠ 0
    (s.cfg.valid = true → exec (.configure chan lf tf rsv mk) s =
      .next { s with outputs := s.outputs ++ [.response (.code .alreadyConfigured)] }) ∧
    (s.cfg.valid = false → bad → exec (.configure chan lf tf rsv mk) s =
      .next { s with outputs := s.outputs ++ [.response (.code .badConfig)] }) ∧
    (s.cfg.valid = false → ¬ bad → ∃ t : State, exec (.configure chan lf tf rsv mk) s = .next t ∧
      t.cfg.valid = true ∧ t.cfg.chanId = chan ∧ t.cfg.n.toNat = mk.length ∧
      (∀ (i : Nat) (h : i < 8), t.cfg.marker[i] = if h' : i < mk.length then mk[i] else 0) ∧
      t.cfg.lenForm = lf ∧ t.cfg.typeForm = tf ∧
      t.ring = { s.ring with rd := 0, wr := 0 } ∧ t.sync = { mode := .hunting, m := 0 } ∧
      t.frame = { phase := .lenB0, rxLen := 0, rxType := 0, rxCsx := 0, rxCount := 0 } ∧
      t.flags = { ovf := false, herr := false, cerr := false } ∧
      t.outputs = s.outputs ++ [.response (.code .ok)] ∧
      t.params = s.params ∧ t.pbuf = s.pbuf ∧ t.cmdIn = s.cmdIn ∧ t.resetLine = s.resetLine)

/-- SEND (46_commands.md R212; 44_encoder.md R170, R171; 30_encoding.md R89): unconfigured it answers NOT_CONFIGURED
whatever L and T are; with L or T above 32767 it answers RANGE_ERROR and emits nothing; else it emits exactly the frame
`MARKER[0..N) ++ VarintEncode(L) ++ VarintEncode(T) ++ cs_field(L, S) ++ payload` of the wire format and answers OK. No
other state changes (R173). -/
def Obligations.SendEmitsTheWireFrame : Prop :=
  ∀ (s : State) (type : Word) (p : List Byte),
    (s.cfg.valid = false → exec (.send type p) s =
      .next { s with outputs := s.outputs ++ [.response (.code .notConfigured)] }) ∧
    (s.cfg.valid = true → (32767 < p.length ∨ 32767 < type.toNat) → exec (.send type p) s =
      .next { s with outputs := s.outputs ++ [.response (.code .rangeError)] }) ∧
    (s.cfg.valid = true → p.length ≤ 32767 → type.toNat ≤ 32767 → exec (.send type p) s =
      .next { s with outputs := s.outputs ++
        [.tx (wireFrame (s.cfg.marker.toList.take s.cfg.n.toNat) type.toNat p), .response (.code .ok)] })

/-- RESYNC (46_commands.md R213): unconfigured it answers NOT_CONFIGURED and changes nothing; configured: ring empty,
HUNTING, M = 0, the frame reset, answer OK, and the configuration, the flags and everything else kept. -/
def Obligations.ResyncResetsTheChannel : Prop :=
  ∀ s : State,
    (s.cfg.valid = false → exec .resync s = .next { s with outputs := s.outputs ++ [.response (.code .notConfigured)] }) ∧
    (s.cfg.valid = true → exec .resync s =
      .next { s with
        ring := { s.ring with rd := 0, wr := 0 }
        sync := { mode := .hunting, m := 0 }
        frame := { phase := .lenB0, rxLen := 0, rxType := 0, rxCsx := 0, rxCount := 0 }
        outputs := s.outputs ++ [.response (.code .ok)] })

/-- READ_REG (46_commands.md R222; the map of 10_state.md R32): 0x00..0x0C answer OK with the register's value, 0x0D..0xFF
answer BAD_REGISTER; nothing else changes. STATUS and CONFIG are those of `StatusAndConfigFields`. -/
def Obligations.ReadRegAnswersTheRegister : Prop :=
  ∀ s : State,
    (∀ (r : Byte) (v : Word),
      (r.toNat, v) ∈ [(0x00, s.statusWord), (0x01, s.configWord),
        (0x02, u16 s.cfg.marker[0] s.cfg.marker[1]), (0x03, u16 s.cfg.marker[2] s.cfg.marker[3]),
        (0x04, u16 s.cfg.marker[4] s.cfg.marker[5]), (0x05, u16 s.cfg.marker[6] s.cfg.marker[7]),
        (0x06, s.frame.rxLen), (0x07, s.frame.rxType), (0x08, s.frame.rxCsx), (0x09, s.frame.rxCount),
        (0x0A, BitVec.ofNat 16 s.ringCount), (0x0B, BitVec.ofNat 16 s.params.ringCapacity),
        (0x0C, BitVec.ofNat 16 s.params.maxPayload)] →
      exec (.readReg r) s = .next { s with outputs := s.outputs ++ [.response (.value v)] }) ∧
    (∀ r : Byte, 0x0C < r.toNat →
      exec (.readReg r) s = .next { s with outputs := s.outputs ++ [.response (.code .badRegister)] })

/-- The fields of STATUS (10_state.md R33) and of CONFIG (R34), each at its bits; the reserved bits read 0. -/
def Obligations.StatusAndConfigFields : Prop :=
  ∀ s : State,
    let st := (s.regValue .status).toNat
    let cf := (s.regValue .config).toNat
    (st % 2 = 1 ↔ s.cfg.valid = true) ∧
    (st / 2 % 2 = 1 ↔ s.sync.mode = .inFrame) ∧
    st / 4 % 8 = (match s.frame.phase with
      | .lenB0 => 0 | .lenB1 => 1 | .typeB0 => 2 | .typeB1 => 3 | .csB0 => 4 | .csB1 => 5 | .payload => 6) ∧
    (st / 32 % 2 = 1 ↔ s.flags.ovf = true) ∧
    (st / 64 % 2 = 1 ↔ s.flags.herr = true) ∧
    (st / 128 % 2 = 1 ↔ s.flags.cerr = true) ∧
    st / 256 % 16 = s.sync.m.toNat ∧
    st / 4096 = 0 ∧
    cf % 256 = s.cfg.chanId.toNat ∧
    cf / 256 % 16 = s.cfg.n.toNat ∧
    (cf / 4096 % 2 = 1 ↔ s.cfg.lenForm = .two) ∧
    (cf / 8192 % 2 = 1 ↔ s.cfg.typeForm = .two) ∧
    cf / 16384 = 0

/-- CLEAR_STATUS (46_commands.md R224), in every state: the three flags are cleared, the answer is OK, and it touches
nothing else. -/
def Obligations.ClearStatusClearsOnlyTheFlags : Prop :=
  ∀ s : State, exec .clearStatus s =
    .next { s with
      flags := { ovf := false, herr := false, cerr := false }
      outputs := s.outputs ++ [.response (.code .ok)] }

/-- While unconfigured, RECEIVE, SEND and RESYNC answer NOT_CONFIGURED and change nothing, their operand bytes consumed from
the command port, and CONFIGURE, READ_REG and CLEAR_STATUS are accepted (46_commands.md R214): none of their answers is
NOT_CONFIGURED. -/
def Obligations.UnconfiguredEngineRefuses : Prop :=
  ∀ s : State, s.cfg.valid = false →
    (∀ i : Instr, (∃ data, i = .receive data) ∨ (∃ type p, i = .send type p) ∨ i = .resync →
      exec i s = .next { s with outputs := s.outputs ++ [.response (.code .notConfigured)] } ∧
      ∀ rest : List Byte, i.wf = true → s.resetLine = false → step { s with cmdIn := encode i ++ rest } =
        .next { s with cmdIn := rest, outputs := s.outputs ++ [.response (.code .notConfigured)] }) ∧
    (∀ i : Instr, (∃ chan lf tf rsv mk, i = .configure chan lf tf rsv mk) ∨ (∃ r, i = .readReg r) ∨ i = .clearStatus →
      ∃ (t : State) (r : Response), exec i s = .next t ∧ t.outputs = s.outputs ++ [.response r] ∧
        r ≠ .code .notConfigured)

/-! ## RECEIVE -/

/-- Overflow (40_ring_buffer.md R108, R109, R110): between commands a burst overflows exactly when it has C bytes or more,
whatever its bytes and the synchronizer's state. Then none of its bytes is written or processed, the channel is reset, OVF
is set, HERR and CERR and the configuration are kept, and the answer is OK. A shorter burst leaves OVF as it was. -/
def Obligations.BurstOverflowsExactlyAtCapacity : Prop :=
  ∀ (s : State) (data : List Byte), s.Inv → s.cfg.valid = true →
    (s.params.ringCapacity ≤ data.length → exec (.receive data) s =
      .next { s with
        ring := { s.ring with rd := 0, wr := 0 }
        sync := { mode := .hunting, m := 0 }
        frame := { phase := .lenB0, rxLen := 0, rxType := 0, rxCsx := 0, rxCount := 0 }
        flags := { s.flags with ovf := true }
        outputs := s.outputs ++ [.response (.code .ok)] }) ∧
    (data.length < s.params.ringCapacity → ∃ t : State, exec (.receive data) s = .next t ∧ t.flags.ovf = s.flags.ovf)

/-- RECEIVE without the ring: a burst that fits is processed byte after byte in arrival order (20_memory.md R63), and the
bytes behind one that completes a marker are lost (41_synchronizer.md R123). The ring's part in it: the burst written at
WR onward modulo C, and afterwards both cursors at WR + n modulo C, or at 0 where a marker cleared the ring. -/
def Obligations.ReceiveProcessesItsBytesInOrder : Prop :=
  ∀ (s : State) (data : List Byte), s.Inv → s.cfg.valid = true → data.length < s.params.ringCapacity →
    ∃ (t : State) (locked : Bool), absorb data s = .ok (t, locked) ∧
      exec (.receive data) s = .next { t with
        ring :=
          { store := storeBurst s.params.ringCapacity s.ring.wr data s.ring.store
            rd := if locked then 0 else (s.ring.wr + data.length) % s.params.ringCapacity
            wr := if locked then 0 else (s.ring.wr + data.length) % s.params.ringCapacity }
        outputs := t.outputs ++ [.response (.code .ok)] }

/-- RECEIVE completes (46_commands.md R210): in every state of the invariant, configured, a burst of any length ends with
answer OK behind at most one packet record, with the ring empty and the configuration as it was; and an empty burst does
nothing but answer. -/
def Obligations.ReceiveCompletesWithAtMostOnePacket : Prop :=
  ∀ (s : State) (data : List Byte), s.Inv → s.cfg.valid = true →
    (∃ (t : State) (packets : List Packet), exec (.receive data) s = .next t ∧ packets.length ≤ 1 ∧
      t.outputs = s.outputs ++ packets.map .packet ++ [.response (.code .ok)] ∧
      t.ringCount = 0 ∧ t.cfg = s.cfg ∧ t.params = s.params ∧ t.cmdIn = s.cmdIn ∧ t.resetLine = s.resetLine) ∧
    (data = [] → exec (.receive data) s = .next { s with outputs := s.outputs ++ [.response (.code .ok)] })

/-- RECEIVE's frame on the two stores. A burst that fits is stored at RING[(WR + i) mod C] (40_ring_buffer.md R103), and
every other byte of RING reads as before. The payload bytes stored lie from PBUF[RX_COUNT] on (45_decoder.md R190), no
more than the burst has, and only where the engine was IN_FRAME; every other byte of PBUF reads as before. A burst that
overflows stores nothing. -/
def Obligations.ReceiveFrameOnTheStores : Prop :=
  ∀ (s t : State) (data : List Byte), s.Inv → s.cfg.valid = true → exec (.receive data) s = .next t →
    (data.length < s.params.ringCapacity →
      (∀ (i : Nat) (h : i < data.length), t.ringByte ((s.ring.wr + i) % s.params.ringCapacity) = some data[i]) ∧
      (∀ a : Nat, (∀ i : Nat, i < data.length → a ≠ (s.ring.wr + i) % s.params.ringCapacity) →
        t.ringByte a = s.ringByte a) ∧
      (∀ a : Nat, a < s.frame.rxCount.toNat ∨ s.frame.rxCount.toNat + data.length ≤ a ∨ s.sync.mode = .hunting →
        t.pbufByte a = s.pbufByte a)) ∧
    (s.params.ringCapacity ≤ data.length →
      ∀ a : Nat, t.ringByte a = s.ringByte a ∧ t.pbufByte a = s.pbufByte a)

/-- The frame of the five commands that take no burst: every byte of both stores, the parameters, the command port and the
reset input are unchanged; the configuration but for CONFIGURE; the cursors, the synchronizer and the frame-in-progress
but for CONFIGURE and RESYNC; the flags but for CONFIGURE and CLEAR_STATUS (10_state.md R29, 44_encoder.md R173). -/
def Obligations.OtherCommandsFrame : Prop :=
  ∀ (i : Instr) (s t : State), (∀ data : List Byte, i ≠ .receive data) → exec i s = .next t →
    (∀ a : Nat, t.ringByte a = s.ringByte a ∧ t.pbufByte a = s.pbufByte a) ∧
    t.params = s.params ∧ t.cmdIn = s.cmdIn ∧ t.resetLine = s.resetLine ∧
    ((∀ chan lf tf rsv mk, i ≠ .configure chan lf tf rsv mk) → t.cfg = s.cfg ∧
      (i ≠ .resync → t.ring = s.ring ∧ t.sync = s.sync ∧ t.frame = s.frame) ∧
      (i ≠ .clearStatus → t.flags = s.flags))

/-- Every command ends in exactly one response, behind whatever else it emits (20_memory.md R64, 30_encoding.md R75,
46_commands.md R201): packet records for RECEIVE only, transmit bytes for SEND only, and a register value only for
READ_REG. -/
def Obligations.OneResponseLast : Prop :=
  ∀ (i : Instr) (s t : State), exec i s = .next t →
    ∃ (events : List PortEvent) (r : Response), t.outputs = s.outputs ++ events ++ [.response r] ∧
      (∀ e ∈ events, (∃ p, e = .packet p ∧ ∃ data, i = .receive data) ∨
        (∃ bytes, e = .tx bytes ∧ ∃ type p, i = .send type p)) ∧
      ((∃ v, r = .value v) → ∃ n, i = .readReg n)

/-- A command that fails changes no engine state and emits nothing but its error response (46_commands.md R202); an illegal
opcode, a command of its own, always fails so. -/
def Obligations.FailedCommandChangesNothing : Prop :=
  (∀ (i : Instr) (s t : State) (events : List PortEvent) (c : ResponseCode), exec i s = .next t →
    t.outputs = s.outputs ++ events ++ [.response (.code c)] → c ≠ .ok →
    t = { s with outputs := s.outputs ++ [.response (.code c)] }) ∧
  ∀ (op : Byte) (s : State),
    execIllegal op s = .next { s with outputs := s.outputs ++ [.response (.code .illegalCommand)] }

/-- What a command adds to the response port (30_encoding.md R75, R76): a READ_REG that succeeds the three bytes
`00 VAL_LO VAL_HI`, and every other command, a failed READ_REG and an illegal opcode among them, the one byte of its
response code. -/
def Obligations.ResponsePortBytes : Prop :=
  (∀ (op : Byte) (s t : State), execIllegal op s = .next t →
    responseStream t.outputs = responseStream s.outputs ++ [0x05#8]) ∧
  ∀ (i : Instr) (s t : State), exec i s = .next t →
    ∃ r : Response, t.outputs.getLast? = some (.response r) ∧
      responseStream t.outputs = responseStream s.outputs ++ r.bytes ∧
      ((∃ v, r = .value v) ↔ ∃ n : Byte, i = .readReg n ∧ n.toNat ≤ 0x0C) ∧
      (∀ v : Word, r = .value v → r.bytes = [0x00#8, BitVec.ofNat 8 (v.toNat % 256), BitVec.ofNat 8 (v.toNat / 256)]) ∧
      ∀ c : ResponseCode, r = .code c → r.bytes = [match c with
        | .ok => 0x00#8 | .notConfigured => 0x01#8 | .alreadyConfigured => 0x02#8 | .badConfig => 0x03#8
        | .rangeError => 0x04#8 | .illegalCommand => 0x05#8 | .badRegister => 0x06#8]

/-- A packet record serialised (30_encoding.md R74): `CHAN TYPE_LO TYPE_HI LEN_LO LEN_HI payload`. -/
def Obligations.PacketRecordBytes : Prop :=
  ∀ p : Packet, p.payload.length ≤ 32767 →
    p.bytes = [p.chan, BitVec.ofNat 8 (p.type.toNat % 256), BitVec.ofNat 8 (p.type.toNat / 256),
      BitVec.ofNat 8 (p.payload.length % 256), BitVec.ofNat 8 (p.payload.length / 256)] ++ p.payload

/-- The assembler (30_encoding.md R96, R97), on its abstract syntax: the CONFIGURE of R96's example is spelled as the rule has
it, `fill(k, hh)` is k copies of hh, and RECEIVE_EACH is one one-byte RECEIVE per byte, in order. -/
def Obligations.AssemblerSpellsCommands : Prop :=
  assemble (.configure 0x00#8 .one .two [.byte 0xAA#8, .byte 0x55#8]) = [0x01#8, 0x00#8, 0x22#8, 0xAA#8, 0x55#8] ∧
  (∀ (k : Nat) (b : Byte), dataBytes [.fill k b] = List.replicate k b) ∧
  (∀ data : List DataItem, receiveEach (dataBytes data) = (dataBytes data).map fun b => .receive [b]) ∧
  ∀ data : List DataItem, assemble (.receiveEach data) = (dataBytes data).flatMap fun b => [0x02#8, 0x01#8, 0x00#8, b]

/-! ## Codec, checksum, encoder -/

/-- VarintEncode (42_varint.md R141, R142, R143): one byte below 128, two bytes [v mod 128, v / 128] below 32768, and
RangeError from 32768 on. -/
def Obligations.VarintEncodeBytes : Prop :=
  ∀ v : Word,
    (v.toNat < 128 → varintEncode v = some [BitVec.ofNat 8 v.toNat]) ∧
    (128 ≤ v.toNat → v.toNat < 32768 →
      varintEncode v = some [BitVec.ofNat 8 (v.toNat % 128), BitVec.ofNat 8 (v.toNat / 128)] ∧ 1 ≤ v.toNat / 128 ∧
        v.toNat / 128 ≤ 255) ∧
    (32768 ≤ v.toNat → varintEncode v = none)

/-- The codec round-trips, and its decoders accept exactly what the encoder emits (42_varint.md R147). -/
def Obligations.VarintDecodersInvertTheEncoder : Prop :=
  (∀ (b : Byte) (v : Word), varintDecodeOne b = some v ↔ (v.toNat ≤ 127 ∧ varintEncode v = some [b])) ∧
  (∀ (b0 b1 : Byte) (v : Word),
    varintDecodeTwo b0 b1 = some v ↔ (128 ≤ v.toNat ∧ v.toNat ≤ 32767 ∧ varintEncode v = some [b0, b1])) ∧
  (∀ v : Word, v.toNat ≤ 127 → ∃ b, varintEncode v = some [b] ∧ varintDecodeOne b = some v) ∧
  (∀ v : Word, 128 ≤ v.toNat → v.toNat ≤ 32767 →
    ∃ b0 b1, varintEncode v = some [b0, b1] ∧ varintDecodeTwo b0 b1 = some v)

/-- Checksum16 is the sum of the payload bytes modulo 2^16 (43_checksum.md R160), and so depends on no order (R164). -/
def Obligations.ChecksumIsTheSumModulo : Prop :=
  (∀ p : List Byte, (checksum16 p).toNat = (p.map fun b => b.toNat).sum % 65536) ∧
  ∀ p q : List Byte, p.Perm q → checksum16 p = checksum16 q

/-- The checksum field: its width (43_checksum.md R161), its bytes low byte first (R162), and CsMatch, true exactly when
the received bytes are those of CsBytes (R163). `csx` holds the received bytes as 45_decoder.md R189 assembles them. -/
def Obligations.ChecksumFieldMatchesExactly : Prop :=
  ∀ (len : Nat) (sum : Word),
    (len = 0 → csBytes len sum = []) ∧
    (1 ≤ len → len ≤ 31 → csBytes len sum = [BitVec.ofNat 8 (sum.toNat % 256)] ∧
      ∀ b0 : Byte, csMatch len sum (b0.setWidth 16) = true ↔ csBytes len sum = [b0]) ∧
    (32 ≤ len → csBytes len sum = [BitVec.ofNat 8 (sum.toNat % 256), BitVec.ofNat 8 (sum.toNat / 256)] ∧
      ∀ b0 b1 : Byte, csMatch len sum (b0.setWidth 16 ||| (b1.setWidth 16 <<< 8)) = true ↔ csBytes len sum = [b0, b1])

/-- What the checksum detects and misses (43_checksum.md R165): a change to one payload byte always changes the field and
fails the comparison; changes whose total is a multiple of 256 (one-byte form) or of 65536 (two-byte form), those that cancel
among them, leave the field as it was and pass the comparison. -/
def Obligations.ChecksumDetectsAndMisses : Prop :=
  (∀ (p : List Byte) (i : Nat) (b : Byte) (h : i < p.length), p[i] ≠ b →
    csBytes p.length (checksum16 (p.set i b)) ≠ csBytes p.length (checksum16 p) ∧
    csMatch p.length (checksum16 (p.set i b)) (checksum16 p) = false) ∧
  ∀ p q : List Byte, p.length = q.length → 1 ≤ p.length →
    (if p.length < 32 then (p.map fun b => b.toNat).sum % 256 = (q.map fun b => b.toNat).sum % 256
      else (p.map fun b => b.toNat).sum % 65536 = (q.map fun b => b.toNat).sum % 65536) →
    csBytes p.length (checksum16 q) = csBytes p.length (checksum16 p) ∧
    csMatch p.length (checksum16 q) (checksum16 p) = true

/-- The length of a frame on the transmit port (44_encoder.md R174): N + H + L with H by the table of L and T. -/
def Obligations.FrameLengthByTable : Prop :=
  ∀ (c : ChannelConfig) (type : Word) (p frame : List Byte), c.n.toNat ≤ 8 → encodeFrame c type p = some frame →
    frame.length = c.n.toNat + p.length +
      (if p.length = 0 then 2 else if p.length < 32 then 3 else if p.length < 128 then 4 else 5) +
      (if type.toNat < 128 then 0 else 1)

/-! ## Synchronizer -/

/-- SyncStep (41_synchronizer.md R121, R122, R123), observed by a one-byte RECEIVE in HUNTING: a byte equal to MARKER[M]
raises M; any other byte sets M to 1 if it is MARKER[0] and to 0 if not; where M reaches N the engine is IN_FRAME with
M = 0, the frame reset and the ring cleared; else it hunts on with 0 ≤ M ≤ N − 1. Nothing is delivered, and flags,
configuration and payload store are kept. -/
def Obligations.HuntingByteMovesTheMatchCount : Prop :=
  ∀ (s : State) (b : Byte) (h : s.sync.m.toNat < 8), s.Inv → s.cfg.valid = true → s.sync.mode = .hunting →
    let m' : Nat := if b = s.cfg.marker[s.sync.m.toNat] then s.sync.m.toNat + 1 else if b = s.cfg.marker[0] then 1 else 0
    ∃ t : State, exec (.receive [b]) s = .next t ∧
      (m' = s.cfg.n.toNat → t.sync = { mode := .inFrame, m := 0 } ∧ t.ring.rd = 0 ∧ t.ring.wr = 0) ∧
      (m' ≠ s.cfg.n.toNat → t.sync.mode = .hunting ∧ t.sync.m.toNat = m' ∧ m' + 1 ≤ s.cfg.n.toNat) ∧
      t.frame = { phase := .lenB0, rxLen := 0, rxType := 0, rxCsx := 0, rxCount := 0 } ∧
      t.flags = s.flags ∧ t.cfg = s.cfg ∧ t.pbuf = s.pbuf ∧ t.outputs = s.outputs ++ [.response (.code .ok)]

/-- The lookback is exact for markers that meet the condition of 41_synchronizer.md R124 (its "if" half): hunting from
M = 0 over bursts none of whose bytes yet completes an occurrence of the marker, and then over one more burst, the engine
is IN_FRAME exactly when the marker occurs in the bytes hunted. -/
def Obligations.UnborderedMarkerIsFoundExactly : Prop :=
  ∀ (s : State) (bursts : List (List Byte)) (last : List Byte), s.Inv → s.cfg.valid = true → s.sync.mode = .hunting →
    s.sync.m = 0 → MarkerUnbordered s.cfg.markerBytes →
    (∀ w ∈ bursts ++ [last], w.length < s.params.ringCapacity) →
    ¬ s.cfg.markerBytes <:+: bursts.flatten →
    ∃ t : State, runCommands ((bursts ++ [last]).map .receive) s = .next t ∧
      (t.sync.mode = .inFrame ↔ s.cfg.markerBytes <:+: bursts.flatten ++ last)

/-- For any marker, the engine never locks on anything but the marker (41_synchronizer.md R121): where no occurrence of it
is among the bytes hunted from M = 0, the engine is still HUNTING. -/
def Obligations.NoLockWithoutTheMarker : Prop :=
  ∀ (s : State) (bursts : List (List Byte)), s.Inv → s.cfg.valid = true → s.sync.mode = .hunting → s.sync.m = 0 →
    (∀ w ∈ bursts, w.length < s.params.ringCapacity) → ¬ s.cfg.markerBytes <:+: bursts.flatten →
    ∃ t : State, runCommands (bursts.map .receive) s = .next t ∧ t.sync.mode = .hunting

/-- The "only if" half of 41_synchronizer.md R124 as its words "exactly when the marker meets this condition" have it: every
marker that fails the condition is missed on some burst. Expected to FAIL: the marker AA AA AA fails the condition and is
never missed. -/
def Obligations.EveryBorderedMarkerIsMissedSomewhere : Prop :=
  ∀ mk : List Byte, 1 ≤ mk.length → mk.length ≤ 8 → ¬ MarkerUnbordered mk →
    ∃ (s t : State) (w : List Byte), s.Inv ∧ s.cfg.valid = true ∧ s.cfg.markerBytes = mk ∧ s.sync.mode = .hunting ∧
      s.sync.m = 0 ∧ w.length < s.params.ringCapacity ∧ mk <:+: w ∧ exec (.receive w) s = .next t ∧
      t.sync.mode = .hunting

/-- A frame delivered whole in one burst gives no packet (41_synchronizer.md R130): whatever stands behind the marker in its
burst, the engine ends IN_FRAME at LEN_B0 with an empty ring, waiting for the header in the next burst. -/
def Obligations.BytesBehindTheMarkerAreLost : Prop :=
  ∀ (s : State) (behind : List Byte), s.Inv → s.cfg.valid = true → s.sync.mode = .hunting → s.sync.m = 0 →
    s.cfg.n.toNat + behind.length < s.params.ringCapacity →
    ∃ t : State, exec (.receive (s.cfg.markerBytes ++ behind)) s = .next t ∧
      t.outputs = s.outputs ++ [.response (.code .ok)] ∧ t.sync = { mode := .inFrame, m := 0 } ∧
      t.frame = { phase := .lenB0, rxLen := 0, rxType := 0, rxCsx := 0, rxCount := 0 } ∧
      t.ring.rd = 0 ∧ t.ring.wr = 0 ∧ t.flags = s.flags ∧ t.cfg = s.cfg

/-! ## Packet decoder, one byte at a time -/

/-- A length byte (45_decoder.md R183, R184, R185; 42_varint.md R145, R146), observed by a one-byte RECEIVE: byte 0 with
bit 7 set, a second byte of 0 and a length above MAX_PAYLOAD are HeaderErrors (HERR set, HUNTING, M = 0, frame reset, no
packet); else RX_LEN and PHASE are as the rule gives. -/
def Obligations.LengthByteStep : Prop :=
  ∀ (s : State) (b : Byte), s.Inv → s.cfg.valid = true → s.sync.mode = .inFrame →
    s.frame.phase = .lenB0 ∨ s.frame.phase = .lenB1 →
    let len : Nat := if s.frame.phase = .lenB0 then b.toNat else s.frame.rxLen.toNat + 128 * b.toNat
    let more : Prop := s.frame.phase = .lenB0 ∧ s.cfg.lenForm = .two
    let bad : Prop :=
      (s.frame.phase = .lenB0 ∧ 128 ≤ b.toNat) ∨ (s.frame.phase = .lenB1 ∧ b = 0) ∨ (¬ more ∧ s.params.maxPayload < len)
    ∃ t : State, exec (.receive [b]) s = .next t ∧
      (bad → t.flags = { s.flags with herr := true } ∧ t.sync = { mode := .hunting, m := 0 } ∧ t.frame = Frame.reset) ∧
      (¬ bad → t.flags = s.flags ∧ t.sync = s.sync ∧ t.frame.rxLen.toNat = len ∧
        t.frame = { s.frame with rxLen := t.frame.rxLen, phase := t.frame.phase } ∧
        (more → t.frame.phase = .lenB1) ∧ (¬ more → t.frame.phase = .typeB0)) ∧
      t.outputs = s.outputs ++ [.response (.code .ok)] ∧ t.cfg = s.cfg ∧ t.pbuf = s.pbuf

/-- A type byte (45_decoder.md R186, R187, R188, R192), observed by a one-byte RECEIVE: byte 0 with bit 7 set and a second
byte of 0 are HeaderErrors; a completed type of a frame of length 0 delivers the packet with the empty payload at once
and ends the frame; else RX_TYPE and PHASE are as the rule gives. -/
def Obligations.TypeByteStep : Prop :=
  ∀ (s : State) (b : Byte), s.Inv → s.cfg.valid = true → s.sync.mode = .inFrame →
    s.frame.phase = .typeB0 ∨ s.frame.phase = .typeB1 →
    let type : Nat := if s.frame.phase = .typeB0 then b.toNat else s.frame.rxType.toNat + 128 * b.toNat
    let more : Prop := s.frame.phase = .typeB0 ∧ s.cfg.typeForm = .two
    let bad : Prop := (s.frame.phase = .typeB0 ∧ 128 ≤ b.toNat) ∨ (s.frame.phase = .typeB1 ∧ b = 0)
    ∃ t : State, exec (.receive [b]) s = .next t ∧
      (bad → t.flags = { s.flags with herr := true } ∧ t.sync = { mode := .hunting, m := 0 } ∧ t.frame = Frame.reset ∧
        t.outputs = s.outputs ++ [.response (.code .ok)]) ∧
      (¬ bad → ¬ more → s.frame.rxLen = 0 →
        t.flags = s.flags ∧ t.sync = { mode := .hunting, m := 0 } ∧ t.frame = Frame.reset ∧
        t.outputs = s.outputs ++
          [.packet { chan := s.cfg.chanId, type := BitVec.ofNat 16 type, payload := [] }, .response (.code .ok)]) ∧
      (¬ bad → more ∨ s.frame.rxLen ≠ 0 →
        t.flags = s.flags ∧ t.sync = s.sync ∧ t.frame.rxType.toNat = type ∧
        t.frame = { s.frame with rxType := t.frame.rxType, phase := t.frame.phase } ∧
        (more → t.frame.phase = .typeB1) ∧ (¬ more → t.frame.phase = .csB0) ∧
        t.outputs = s.outputs ++ [.response (.code .ok)]) ∧
      t.cfg = s.cfg ∧ t.pbuf = s.pbuf

/-- A checksum byte (45_decoder.md R189), observed by a one-byte RECEIVE: any byte is legal; it goes to RX_CSX, low byte
first, and the payload follows after one byte where RX_LEN < 32 and after two where RX_LEN ≥ 32. -/
def Obligations.ChecksumByteStep : Prop :=
  ∀ (s : State) (b : Byte), s.Inv → s.cfg.valid = true → s.sync.mode = .inFrame →
    s.frame.phase = .csB0 ∨ s.frame.phase = .csB1 →
    ∃ t : State, exec (.receive [b]) s = .next t ∧
      t.frame.rxCsx.toNat = (if s.frame.phase = .csB0 then b.toNat else s.frame.rxCsx.toNat + 256 * b.toNat) ∧
      t.frame.phase = (if s.frame.phase = .csB0 ∧ 32 ≤ s.frame.rxLen.toNat then .csB1 else .payload) ∧
      t.frame = { s.frame with rxCsx := t.frame.rxCsx, phase := t.frame.phase } ∧
      t.flags = s.flags ∧ t.sync = s.sync ∧ t.cfg = s.cfg ∧ t.pbuf = s.pbuf ∧
      t.outputs = s.outputs ++ [.response (.code .ok)]

/-- A payload byte (45_decoder.md R190, R191, R192, R195), observed by a one-byte RECEIVE: it is stored at PBUF[RX_COUNT] and
RX_COUNT goes up by one. The last one ends the frame: the packet is delivered where the payload's checksum field has the
received bytes, and CERR is set and nothing delivered where it has not. -/
def Obligations.PayloadByteStep : Prop :=
  ∀ (s : State) (b : Byte) (got : List Byte), s.Inv → s.cfg.valid = true → s.sync.mode = .inFrame →
    s.frame.phase = .payload → got.length = s.frame.rxCount.toNat →
    (∀ (i : Nat) (h : i < got.length), s.pbufByte i = some got[i]) →
    let last : Prop := s.frame.rxCount.toNat + 1 = s.frame.rxLen.toNat
    let p : List Byte := got ++ [b]
    let good : Prop := if p.length < 32 then wireSum p % 256 = s.frame.rxCsx.toNat else wireSum p = s.frame.rxCsx.toNat
    ∃ t : State, exec (.receive [b]) s = .next t ∧
      t.pbufByte s.frame.rxCount.toNat = some b ∧
      (∀ a : Nat, a ≠ s.frame.rxCount.toNat → t.pbufByte a = s.pbufByte a) ∧
      (¬ last → t.frame = { s.frame with rxCount := s.frame.rxCount + 1 } ∧ t.sync = s.sync ∧ t.flags = s.flags ∧
        t.outputs = s.outputs ++ [.response (.code .ok)]) ∧
      (last → t.frame = Frame.reset ∧ t.sync = { mode := .hunting, m := 0 } ∧
        (good → t.flags = s.flags ∧ t.outputs = s.outputs ++
          [.packet { chan := s.cfg.chanId, type := s.frame.rxType, payload := p }, .response (.code .ok)]) ∧
        (¬ good → t.flags = { s.flags with cerr := true } ∧ t.outputs = s.outputs ++ [.response (.code .ok)])) ∧
      t.cfg = s.cfg

/-! ## Whole frames -/

/-- The round trip (45_decoder.md R198): the frame the encoder makes of (T, p), for every T ≤ 32767 and every p of at most
MAX_PAYLOAD bytes, received from HUNTING with M = 0 by an engine with the same marker and the forms that fit L and T, in
bursts of at most C − 1 bytes, the marker's last byte ending its burst, gives exactly one packet (CHAN_ID, T, p) and leaves
the engine HUNTING with M = 0; and the packet comes on the frame's last byte: all bytes but that one, however cut, give
none. -/
def Obligations.EncodedFrameIsReceivedBack : Prop :=
  ∀ (s : State) (type : Word) (p : List Byte) (head : List (List Byte)),
    s.Inv → s.cfg.valid = true → s.sync.mode = .hunting → s.sync.m = 0 →
    p.length ≤ s.params.maxPayload → type.toNat ≤ 32767 →
    s.cfg.lenForm = formOfValue p.length → s.cfg.typeForm = formOfValue type.toNat →
    head.flatten = s.cfg.markerBytes →
    ∃ frame : List Byte, encodeFrame s.cfg type p = some frame ∧
      (∀ body : List (List Byte), (head ++ body).flatten = frame →
        (∀ w ∈ head ++ body, w.length ≤ s.params.ringCapacity - 1) →
        ∃ t : State, runCommands ((head ++ body).map .receive) s = .next t ∧
          packetRecords t.outputs = packetRecords s.outputs ++ [{ chan := s.cfg.chanId, type := type, payload := p }] ∧
          t.sync = { mode := .hunting, m := 0 } ∧ t.flags = s.flags) ∧
      ∀ short : List (List Byte), (head ++ short).flatten = frame.dropLast →
        (∀ w ∈ head ++ short, w.length ≤ s.params.ringCapacity - 1) →
        ∃ t : State, runCommands ((head ++ short).map .receive) s = .next t ∧
          packetRecords t.outputs = packetRecords s.outputs ∧ t.sync.mode = .inFrame

/-- The decoder accepts exactly the encoder's frames (45_decoder.md R199): started at LEN_B0, a burst makes it emit a packet
exactly when it begins with Header(L, T, S) ++ p for an L ≤ MAX_PAYLOAD and varints of the configured widths, and the
packet is (CHAN_ID, T, p). -/
def Obligations.DecoderAcceptsExactlyEncodedFrames : Prop :=
  ∀ (s : State) (burst : List Byte) (packet : Packet), s.Inv → s.cfg.valid = true → s.sync.mode = .inFrame →
    s.frame.phase = .lenB0 → burst.length < s.params.ringCapacity →
    ∃ t : State, exec (.receive burst) s = .next t ∧
      (t.outputs = s.outputs ++ [.packet packet, .response (.code .ok)] ↔
        packet.chan = s.cfg.chanId ∧ packet.type.toNat ≤ 32767 ∧
        packet.payload.length ≤ s.params.maxPayload ∧ s.cfg.lenForm = formOfValue packet.payload.length ∧
        s.cfg.typeForm = formOfValue packet.type.toNat ∧
        wireBody packet.type.toNat packet.payload <+: burst)

/-- What is delivered (45_decoder.md R193): the configured channel id, a type and a payload whose lengths on the wire are the
configured forms', within 0..32767 and MAX_PAYLOAD. So no configuration receives the frames of every length and type (R198,
second paragraph). -/
def Obligations.DeliveredPacketsFitTheForms : Prop :=
  ∀ (s t : State) (bursts : List (List Byte)) (packet : Packet), s.Inv → s.cfg.valid = true →
    runCommands (bursts.map .receive) s = .next t →
    packet ∈ (packetRecords t.outputs).drop (packetRecords s.outputs).length →
    packet.chan = s.cfg.chanId ∧ packet.type.toNat ≤ 32767 ∧ packet.payload.length ≤ s.params.maxPayload ∧
      s.cfg.lenForm = formOfValue packet.payload.length ∧ s.cfg.typeForm = formOfValue packet.type.toNat

/-- Exactly one frame (41_synchronizer.md R132): a valid frame between noise P and Q, the marker unbordered (R124), its first
occurrence in P ++ F at F's first byte, none in Q, the engine HUNTING with M = 0, bursts of at most C − 1 bytes and the
marker's last byte the last of its burst: exactly one packet is delivered, and the engine ends HUNTING. -/
def Obligations.ExactlyOneFrameInNoise : Prop :=
  ∀ (s : State) (type : Word) (p noiseBefore noiseAfter : List Byte) (head body : List (List Byte)),
    s.Inv → s.cfg.valid = true → s.sync.mode = .hunting → s.sync.m = 0 →
    p.length ≤ s.params.maxPayload → type.toNat ≤ 32767 →
    s.cfg.lenForm = formOfValue p.length → s.cfg.typeForm = formOfValue type.toNat →
    MarkerUnbordered s.cfg.markerBytes →
    (∀ k : Nat, k < noiseBefore.length →
      ¬ s.cfg.markerBytes <+: (noiseBefore ++ wireFrame s.cfg.markerBytes type.toNat p).drop k) →
    ¬ s.cfg.markerBytes <:+: noiseAfter →
    head.flatten = noiseBefore ++ s.cfg.markerBytes → body.flatten = wireBody type.toNat p ++ noiseAfter →
    (∀ w ∈ head ++ body, w.length ≤ s.params.ringCapacity - 1) →
    ∃ t : State, runCommands ((head ++ body).map .receive) s = .next t ∧
      packetRecords t.outputs = packetRecords s.outputs ++ [{ chan := s.cfg.chanId, type := type, payload := p }] ∧
      t.sync.mode = .hunting

/-- Where a burst is cut does not matter (41_synchronizer.md R125, 45_decoder.md R182), but for the clear-on-sync hazard
(70_reset_and_hazards.md R273): if its first part `a` completes no marker (the engine is HUNTING after it, or IN_FRAME past
LEN_B0), the burst `a ++ b` and the two bursts `a`, `b` deliver the same packets and leave the same observable state. -/
def Obligations.CuttingABurstChangesNothing : Prop :=
  ∀ (s ta t2 : State) (a b : List Byte), s.Inv → s.cfg.valid = true → a.length + b.length < s.params.ringCapacity →
    exec (.receive a) s = .next ta → ta.sync.mode = .hunting ∨ ta.frame.phase ≠ .lenB0 →
    exec (.receive b) ta = .next t2 →
    ∃ t1 : State, exec (.receive (a ++ b)) s = .next t1 ∧ packetRecords t1.outputs = packetRecords t2.outputs ∧
      SameVisible { t1 with outputs := t2.outputs } t2

/-- A frame in progress ends (60_exceptions.md R263): whatever bytes come, one a burst, the engine is HUNTING again after at
most one frame's worth of them, six header bytes and MAX_PAYLOAD payload bytes. -/
def Obligations.EveryFrameEnds : Prop :=
  ∀ (s : State) (bytes : List Byte), s.Inv → s.cfg.valid = true → s.sync.mode = .inFrame →
    bytes.length = 6 + s.params.maxPayload →
    ∃ (k : Nat) (t : State), k ≤ bytes.length ∧ runCommands (receiveEach (bytes.take k)) s = .next t ∧
      t.sync.mode = .hunting

/-! ## Invariants and rules of the whole machine -/

/-- The invariant holds after reset, for every legal parameter record. -/
def Obligations.InvariantHoldsAtReset : Prop :=
  State.reset.Inv ∧ ∀ p : Params, p.legal → (State.initial p).Inv

/-- Every step keeps the invariant, from every state that meets it. -/
def Obligations.StepKeepsTheInvariant : Prop :=
  ∀ s t : State, s.Inv → step s = .next t → t.Inv

/-- No error is fatal (60_exceptions.md R248); no rule reads a store byte before some rule has written it (10_state.md R44):
from every state of the invariant, a step answers a next state, never a fault or a refusal. On a partial command, which
46_commands.md R203 has wait forever, and on no command at all, that next state is the unchanged one: that waiting is a step
is the model's choice (log entry 3), so the statement says nothing against such a wait. -/
def Obligations.StepAlwaysAnswers : Prop :=
  ∀ s : State, s.Inv → ∃ t : State, step s = .next t

/-- The invariants of 10_state.md R36, R37, R38, R39, R40 and R41 hold of every state a host can bring about, whatever it
sends and whenever it resets. -/
def Obligations.ReachableStatesMeetTheRules : Prop :=
  ∀ s : State, Reachable s →
    s.UnconfiguredAtReset ∧ s.ConfigInRange ∧ s.InFrameMatchZero ∧ s.HuntingFrameIdle ∧ s.FrameShape ∧ s.RingDrained

/-- While CFG_VALID = 1 the configuration is never written; only a hardware reset returns it to its reset values; a second
CONFIGURE is refused (10_state.md R23). -/
def Obligations.ConfigurationIsImmutable : Prop :=
  (∀ (s : State) (chan : Byte) (lf tf : Form) (rsv : BitVec 2) (mk : List Byte), s.cfg.valid = true →
    exec (.configure chan lf tf rsv mk) s = .next { s with outputs := s.outputs ++ [.response (.code .alreadyConfigured)] }) ∧
  (∀ (i : Instr) (s t : State), s.cfg.valid = true → exec i s = .next t → t.cfg = s.cfg) ∧
  (∀ s t : State, s.cfg.valid = true → s.resetLine = false → step s = .next t → t.cfg = s.cfg) ∧
  ∀ s t : State, s.cfg.valid = true → step s = .next t → t.cfg ≠ s.cfg →
    s.resetLine = true ∧ t.cfg = ChannelConfig.reset

/-- The sticky flags (10_state.md R29, R43): RECEIVE only ever sets them; CONFIGURE and CLEAR_STATUS only ever clear them, all
three; SEND, RESYNC and READ_REG leave them; and no command's behaviour depends on them: with other flags before, all else
after is the same. -/
def Obligations.FlagsAreStickyAndUnread : Prop :=
  (∀ (s t : State) (data : List Byte), exec (.receive data) s = .next t →
    (s.flags.ovf = true → t.flags.ovf = true) ∧ (s.flags.herr = true → t.flags.herr = true) ∧
    (s.flags.cerr = true → t.flags.cerr = true)) ∧
  (∀ (i : Instr) (s t : State), (∀ data, i ≠ .receive data) → exec i s = .next t →
    t.flags = s.flags ∨ (t.flags = { ovf := false, herr := false, cerr := false } ∧
      (i = .clearStatus ∨ ∃ chan lf tf rsv mk, i = .configure chan lf tf rsv mk))) ∧
  ∀ (i : Instr) (s t : State) (other : StickyFlags), i ≠ .readReg 0 → exec i s = .next t →
    ∃ after : StickyFlags, exec i { s with flags := other } = .next { t with flags := after }

/-- EmptyError is unreachable (40_ring_buffer.md R105, 60_exceptions.md R246): no command and no step raises it, from any
state at all. -/
def Obligations.EmptyErrorIsNeverRaised : Prop :=
  (∀ (i : Instr) (s : State), exec i s ≠ .fault .emptyError) ∧ ∀ s : State, step s ≠ .fault .emptyError

/-- Idempotence (20_memory.md R60): CLEAR_STATUS and RESYNC leave, issued twice, the state issued once leaves; READ_REG and
SEND change no engine state, so that each SEND emits its frame again. Outputs aside. -/
def Obligations.IdempotentCommands : Prop :=
  (∀ (i : Instr) (s t u : State), i = .clearStatus ∨ i = .resync → exec i s = .next t → exec i t = .next u →
    u = { t with outputs := u.outputs }) ∧
  (∀ (i : Instr) (s t : State), (∃ r, i = .readReg r) ∨ (∃ type p, i = .send type p) → exec i s = .next t →
    t = { s with outputs := t.outputs } ∧
    ∃ events : List PortEvent, t.outputs = s.outputs ++ events ∧
      exec i t = .next { s with outputs := s.outputs ++ events ++ events })

/-- Dead state is invisible (10_state.md R44, R45): of two engines that differ only in the cursor values, the ring's contents
and the payload bytes beyond RX_COUNT, a step of one answers exactly as a step of the other, and they still differ in no
more than that. -/
def Obligations.DeadStateIsInvisible : Prop :=
  ∀ s1 s2 t1 : State, s1.Inv → s2.Inv → SameVisible s1 s2 → step s1 = .next t1 →
    ∃ t2 : State, step s2 = .next t2 ∧ SameVisible t1 t2

/-- Engines share nothing (60_exceptions.md R262, 20_memory.md R69): a command addressed to one engine acts on its state as it
would alone, and never changes another. That a system is a list of engine states, in which a command sets one place, is the
model's choice (log entry 15), and the statement rests on it. -/
def Obligations.EnginesAreIsolated : Prop :=
  ∀ (sys after : List State) (k : Fin sys.length) (i : Instr), execOn sys k i = .next after →
    after.length = sys.length ∧ (∃ t : State, exec i (sys.get k) = .next t ∧ after[k.val]? = some t) ∧
    ∀ j : Nat, j ≠ k.val → after[j]? = sys[j]?
end

