-- ==== Sys2Proof/Laws/State.lean ====
section
/-! SUPPORT. What each field reads after each update of the state: one lemma per field per update, true by unfolding the
update once, so that no later proof unfolds a record. -/

namespace Sys2Proof.Machine

section
variable (s : State)
@[simp] theorem State.setOvf_params : s.setOvf.params = s.params := rfl
@[simp] theorem State.setOvf_cfg : s.setOvf.cfg = s.cfg := rfl
@[simp] theorem State.setOvf_ring : s.setOvf.ring = s.ring := rfl
@[simp] theorem State.setOvf_sync : s.setOvf.sync = s.sync := rfl
@[simp] theorem State.setOvf_frame : s.setOvf.frame = s.frame := rfl
@[simp] theorem State.setOvf_pbuf : s.setOvf.pbuf = s.pbuf := rfl
@[simp] theorem State.setOvf_flags : s.setOvf.flags = { s.flags with ovf := true } := rfl
@[simp] theorem State.setOvf_cmdIn : s.setOvf.cmdIn = s.cmdIn := rfl
@[simp] theorem State.setOvf_resetLine : s.setOvf.resetLine = s.resetLine := rfl
@[simp] theorem State.setOvf_outputs : s.setOvf.outputs = s.outputs := rfl
end

section
variable (s : State)
@[simp] theorem State.setHerr_params : s.setHerr.params = s.params := rfl
@[simp] theorem State.setHerr_cfg : s.setHerr.cfg = s.cfg := rfl
@[simp] theorem State.setHerr_ring : s.setHerr.ring = s.ring := rfl
@[simp] theorem State.setHerr_sync : s.setHerr.sync = s.sync := rfl
@[simp] theorem State.setHerr_frame : s.setHerr.frame = s.frame := rfl
@[simp] theorem State.setHerr_pbuf : s.setHerr.pbuf = s.pbuf := rfl
@[simp] theorem State.setHerr_flags : s.setHerr.flags = { s.flags with herr := true } := rfl
@[simp] theorem State.setHerr_cmdIn : s.setHerr.cmdIn = s.cmdIn := rfl
@[simp] theorem State.setHerr_resetLine : s.setHerr.resetLine = s.resetLine := rfl
@[simp] theorem State.setHerr_outputs : s.setHerr.outputs = s.outputs := rfl
end

section
variable (s : State)
@[simp] theorem State.setCerr_params : s.setCerr.params = s.params := rfl
@[simp] theorem State.setCerr_cfg : s.setCerr.cfg = s.cfg := rfl
@[simp] theorem State.setCerr_ring : s.setCerr.ring = s.ring := rfl
@[simp] theorem State.setCerr_sync : s.setCerr.sync = s.sync := rfl
@[simp] theorem State.setCerr_frame : s.setCerr.frame = s.frame := rfl
@[simp] theorem State.setCerr_pbuf : s.setCerr.pbuf = s.pbuf := rfl
@[simp] theorem State.setCerr_flags : s.setCerr.flags = { s.flags with cerr := true } := rfl
@[simp] theorem State.setCerr_cmdIn : s.setCerr.cmdIn = s.cmdIn := rfl
@[simp] theorem State.setCerr_resetLine : s.setCerr.resetLine = s.resetLine := rfl
@[simp] theorem State.setCerr_outputs : s.setCerr.outputs = s.outputs := rfl
end

section
variable (s : State)
@[simp] theorem State.clearFlags_params : s.clearFlags.params = s.params := rfl
@[simp] theorem State.clearFlags_cfg : s.clearFlags.cfg = s.cfg := rfl
@[simp] theorem State.clearFlags_ring : s.clearFlags.ring = s.ring := rfl
@[simp] theorem State.clearFlags_sync : s.clearFlags.sync = s.sync := rfl
@[simp] theorem State.clearFlags_frame : s.clearFlags.frame = s.frame := rfl
@[simp] theorem State.clearFlags_pbuf : s.clearFlags.pbuf = s.pbuf := rfl
@[simp] theorem State.clearFlags_flags : s.clearFlags.flags = { ovf := false, herr := false, cerr := false } := rfl
@[simp] theorem State.clearFlags_cmdIn : s.clearFlags.cmdIn = s.cmdIn := rfl
@[simp] theorem State.clearFlags_resetLine : s.clearFlags.resetLine = s.resetLine := rfl
@[simp] theorem State.clearFlags_outputs : s.clearFlags.outputs = s.outputs := rfl
end

section
variable (s : State) (e : PortEvent)
@[simp] theorem State.emit_params : (s.emit e).params = s.params := rfl
@[simp] theorem State.emit_cfg : (s.emit e).cfg = s.cfg := rfl
@[simp] theorem State.emit_ring : (s.emit e).ring = s.ring := rfl
@[simp] theorem State.emit_sync : (s.emit e).sync = s.sync := rfl
@[simp] theorem State.emit_frame : (s.emit e).frame = s.frame := rfl
@[simp] theorem State.emit_pbuf : (s.emit e).pbuf = s.pbuf := rfl
@[simp] theorem State.emit_flags : (s.emit e).flags = s.flags := rfl
@[simp] theorem State.emit_cmdIn : (s.emit e).cmdIn = s.cmdIn := rfl
@[simp] theorem State.emit_resetLine : (s.emit e).resetLine = s.resetLine := rfl
@[simp] theorem State.emit_outputs : (s.emit e).outputs = s.outputs ++ [e] := rfl
end

section
variable (s : State) (c : ResponseCode)
@[simp] theorem State.respond_params : (s.respond c).params = s.params := rfl
@[simp] theorem State.respond_cfg : (s.respond c).cfg = s.cfg := rfl
@[simp] theorem State.respond_ring : (s.respond c).ring = s.ring := rfl
@[simp] theorem State.respond_sync : (s.respond c).sync = s.sync := rfl
@[simp] theorem State.respond_frame : (s.respond c).frame = s.frame := rfl
@[simp] theorem State.respond_pbuf : (s.respond c).pbuf = s.pbuf := rfl
@[simp] theorem State.respond_flags : (s.respond c).flags = s.flags := rfl
@[simp] theorem State.respond_cmdIn : (s.respond c).cmdIn = s.cmdIn := rfl
@[simp] theorem State.respond_resetLine : (s.respond c).resetLine = s.resetLine := rfl
@[simp] theorem State.respond_outputs : (s.respond c).outputs = s.outputs ++ [.response (.code c)] := rfl
end

section
variable (s : State) (v : Word)
@[simp] theorem State.respondValue_params : (s.respondValue v).params = s.params := rfl
@[simp] theorem State.respondValue_cfg : (s.respondValue v).cfg = s.cfg := rfl
@[simp] theorem State.respondValue_ring : (s.respondValue v).ring = s.ring := rfl
@[simp] theorem State.respondValue_sync : (s.respondValue v).sync = s.sync := rfl
@[simp] theorem State.respondValue_frame : (s.respondValue v).frame = s.frame := rfl
@[simp] theorem State.respondValue_pbuf : (s.respondValue v).pbuf = s.pbuf := rfl
@[simp] theorem State.respondValue_flags : (s.respondValue v).flags = s.flags := rfl
@[simp] theorem State.respondValue_cmdIn : (s.respondValue v).cmdIn = s.cmdIn := rfl
@[simp] theorem State.respondValue_resetLine : (s.respondValue v).resetLine = s.resetLine := rfl
@[simp] theorem State.respondValue_outputs : (s.respondValue v).outputs = s.outputs ++ [.response (.value v)] := rfl
end

section
variable (s : State) (p : Packet)
@[simp] theorem State.emitPacket_params : (s.emitPacket p).params = s.params := rfl
@[simp] theorem State.emitPacket_cfg : (s.emitPacket p).cfg = s.cfg := rfl
@[simp] theorem State.emitPacket_ring : (s.emitPacket p).ring = s.ring := rfl
@[simp] theorem State.emitPacket_sync : (s.emitPacket p).sync = s.sync := rfl
@[simp] theorem State.emitPacket_frame : (s.emitPacket p).frame = s.frame := rfl
@[simp] theorem State.emitPacket_pbuf : (s.emitPacket p).pbuf = s.pbuf := rfl
@[simp] theorem State.emitPacket_flags : (s.emitPacket p).flags = s.flags := rfl
@[simp] theorem State.emitPacket_cmdIn : (s.emitPacket p).cmdIn = s.cmdIn := rfl
@[simp] theorem State.emitPacket_resetLine : (s.emitPacket p).resetLine = s.resetLine := rfl
@[simp] theorem State.emitPacket_outputs : (s.emitPacket p).outputs = s.outputs ++ [.packet p] := rfl
end

section
variable (s : State) (bytes : List Byte)
@[simp] theorem State.emitTx_params : (s.emitTx bytes).params = s.params := rfl
@[simp] theorem State.emitTx_cfg : (s.emitTx bytes).cfg = s.cfg := rfl
@[simp] theorem State.emitTx_ring : (s.emitTx bytes).ring = s.ring := rfl
@[simp] theorem State.emitTx_sync : (s.emitTx bytes).sync = s.sync := rfl
@[simp] theorem State.emitTx_frame : (s.emitTx bytes).frame = s.frame := rfl
@[simp] theorem State.emitTx_pbuf : (s.emitTx bytes).pbuf = s.pbuf := rfl
@[simp] theorem State.emitTx_flags : (s.emitTx bytes).flags = s.flags := rfl
@[simp] theorem State.emitTx_cmdIn : (s.emitTx bytes).cmdIn = s.cmdIn := rfl
@[simp] theorem State.emitTx_resetLine : (s.emitTx bytes).resetLine = s.resetLine := rfl
@[simp] theorem State.emitTx_outputs : (s.emitTx bytes).outputs = s.outputs ++ [.tx bytes] := rfl
end

section
variable (s : State)
@[simp] theorem State.ringClear_params : s.ringClear.params = s.params := rfl
@[simp] theorem State.ringClear_cfg : s.ringClear.cfg = s.cfg := rfl
@[simp] theorem State.ringClear_ring : s.ringClear.ring = { s.ring with rd := 0, wr := 0 } := rfl
@[simp] theorem State.ringClear_sync : s.ringClear.sync = s.sync := rfl
@[simp] theorem State.ringClear_frame : s.ringClear.frame = s.frame := rfl
@[simp] theorem State.ringClear_pbuf : s.ringClear.pbuf = s.pbuf := rfl
@[simp] theorem State.ringClear_flags : s.ringClear.flags = s.flags := rfl
@[simp] theorem State.ringClear_cmdIn : s.ringClear.cmdIn = s.cmdIn := rfl
@[simp] theorem State.ringClear_resetLine : s.ringClear.resetLine = s.resetLine := rfl
@[simp] theorem State.ringClear_outputs : s.ringClear.outputs = s.outputs := rfl
end

section
variable (s : State)
@[simp] theorem State.frameReset_params : s.frameReset.params = s.params := rfl
@[simp] theorem State.frameReset_cfg : s.frameReset.cfg = s.cfg := rfl
@[simp] theorem State.frameReset_ring : s.frameReset.ring = s.ring := rfl
@[simp] theorem State.frameReset_sync : s.frameReset.sync = s.sync := rfl
@[simp] theorem State.frameReset_frame : s.frameReset.frame = { phase := .lenB0, rxLen := 0, rxType := 0, rxCsx := 0, rxCount := 0 } := rfl
@[simp] theorem State.frameReset_pbuf : s.frameReset.pbuf = s.pbuf := rfl
@[simp] theorem State.frameReset_flags : s.frameReset.flags = s.flags := rfl
@[simp] theorem State.frameReset_cmdIn : s.frameReset.cmdIn = s.cmdIn := rfl
@[simp] theorem State.frameReset_resetLine : s.frameReset.resetLine = s.resetLine := rfl
@[simp] theorem State.frameReset_outputs : s.frameReset.outputs = s.outputs := rfl
end

section
variable (s : State)
@[simp] theorem State.endFrame_params : s.endFrame.params = s.params := rfl
@[simp] theorem State.endFrame_cfg : s.endFrame.cfg = s.cfg := rfl
@[simp] theorem State.endFrame_ring : s.endFrame.ring = s.ring := rfl
@[simp] theorem State.endFrame_sync : s.endFrame.sync = { mode := .hunting, m := 0 } := rfl
@[simp] theorem State.endFrame_frame : s.endFrame.frame = { phase := .lenB0, rxLen := 0, rxType := 0, rxCsx := 0, rxCount := 0 } := rfl
@[simp] theorem State.endFrame_pbuf : s.endFrame.pbuf = s.pbuf := rfl
@[simp] theorem State.endFrame_flags : s.endFrame.flags = s.flags := rfl
@[simp] theorem State.endFrame_cmdIn : s.endFrame.cmdIn = s.cmdIn := rfl
@[simp] theorem State.endFrame_resetLine : s.endFrame.resetLine = s.resetLine := rfl
@[simp] theorem State.endFrame_outputs : s.endFrame.outputs = s.outputs := rfl
end

section
variable (s : State)
@[simp] theorem State.channelReset_params : s.channelReset.params = s.params := rfl
@[simp] theorem State.channelReset_cfg : s.channelReset.cfg = s.cfg := rfl
@[simp] theorem State.channelReset_ring : s.channelReset.ring = { s.ring with rd := 0, wr := 0 } := rfl
@[simp] theorem State.channelReset_sync : s.channelReset.sync = { mode := .hunting, m := 0 } := rfl
@[simp] theorem State.channelReset_frame : s.channelReset.frame = { phase := .lenB0, rxLen := 0, rxType := 0, rxCsx := 0, rxCount := 0 } := rfl
@[simp] theorem State.channelReset_pbuf : s.channelReset.pbuf = s.pbuf := rfl
@[simp] theorem State.channelReset_flags : s.channelReset.flags = s.flags := rfl
@[simp] theorem State.channelReset_cmdIn : s.channelReset.cmdIn = s.cmdIn := rfl
@[simp] theorem State.channelReset_resetLine : s.channelReset.resetLine = s.resetLine := rfl
@[simp] theorem State.channelReset_outputs : s.channelReset.outputs = s.outputs := rfl
end

section
variable (s : State)
@[simp] theorem State.enterFrame_params : s.enterFrame.params = s.params := rfl
@[simp] theorem State.enterFrame_cfg : s.enterFrame.cfg = s.cfg := rfl
@[simp] theorem State.enterFrame_ring : s.enterFrame.ring = { s.ring with rd := 0, wr := 0 } := rfl
@[simp] theorem State.enterFrame_sync : s.enterFrame.sync = { mode := .inFrame, m := 0 } := rfl
@[simp] theorem State.enterFrame_frame : s.enterFrame.frame = { phase := .lenB0, rxLen := 0, rxType := 0, rxCsx := 0, rxCount := 0 } := rfl
@[simp] theorem State.enterFrame_pbuf : s.enterFrame.pbuf = s.pbuf := rfl
@[simp] theorem State.enterFrame_flags : s.enterFrame.flags = s.flags := rfl
@[simp] theorem State.enterFrame_cmdIn : s.enterFrame.cmdIn = s.cmdIn := rfl
@[simp] theorem State.enterFrame_resetLine : s.enterFrame.resetLine = s.resetLine := rfl
@[simp] theorem State.enterFrame_outputs : s.enterFrame.outputs = s.outputs := rfl
end

section
variable (s : State)
@[simp] theorem State.headerFail_params : s.headerFail.params = s.params := rfl
@[simp] theorem State.headerFail_cfg : s.headerFail.cfg = s.cfg := rfl
@[simp] theorem State.headerFail_ring : s.headerFail.ring = s.ring := rfl
@[simp] theorem State.headerFail_sync : s.headerFail.sync = { mode := .hunting, m := 0 } := rfl
@[simp] theorem State.headerFail_frame : s.headerFail.frame = { phase := .lenB0, rxLen := 0, rxType := 0, rxCsx := 0, rxCount := 0 } := rfl
@[simp] theorem State.headerFail_pbuf : s.headerFail.pbuf = s.pbuf := rfl
@[simp] theorem State.headerFail_flags : s.headerFail.flags = { s.flags with herr := true } := rfl
@[simp] theorem State.headerFail_cmdIn : s.headerFail.cmdIn = s.cmdIn := rfl
@[simp] theorem State.headerFail_resetLine : s.headerFail.resetLine = s.resetLine := rfl
@[simp] theorem State.headerFail_outputs : s.headerFail.outputs = s.outputs := rfl
end

section
variable (s : State)
@[simp] theorem State.checksumFail_params : s.checksumFail.params = s.params := rfl
@[simp] theorem State.checksumFail_cfg : s.checksumFail.cfg = s.cfg := rfl
@[simp] theorem State.checksumFail_ring : s.checksumFail.ring = s.ring := rfl
@[simp] theorem State.checksumFail_sync : s.checksumFail.sync = { mode := .hunting, m := 0 } := rfl
@[simp] theorem State.checksumFail_frame : s.checksumFail.frame = { phase := .lenB0, rxLen := 0, rxType := 0, rxCsx := 0, rxCount := 0 } := rfl
@[simp] theorem State.checksumFail_pbuf : s.checksumFail.pbuf = s.pbuf := rfl
@[simp] theorem State.checksumFail_flags : s.checksumFail.flags = { s.flags with cerr := true } := rfl
@[simp] theorem State.checksumFail_cmdIn : s.checksumFail.cmdIn = s.cmdIn := rfl
@[simp] theorem State.checksumFail_resetLine : s.checksumFail.resetLine = s.resetLine := rfl
@[simp] theorem State.checksumFail_outputs : s.checksumFail.outputs = s.outputs := rfl
end

section
variable (s : State) (p : Phase)
@[simp] theorem State.setPhase_params : (s.setPhase p).params = s.params := rfl
@[simp] theorem State.setPhase_cfg : (s.setPhase p).cfg = s.cfg := rfl
@[simp] theorem State.setPhase_ring : (s.setPhase p).ring = s.ring := rfl
@[simp] theorem State.setPhase_sync : (s.setPhase p).sync = s.sync := rfl
@[simp] theorem State.setPhase_frame : (s.setPhase p).frame = { s.frame with phase := p } := rfl
@[simp] theorem State.setPhase_pbuf : (s.setPhase p).pbuf = s.pbuf := rfl
@[simp] theorem State.setPhase_flags : (s.setPhase p).flags = s.flags := rfl
@[simp] theorem State.setPhase_cmdIn : (s.setPhase p).cmdIn = s.cmdIn := rfl
@[simp] theorem State.setPhase_resetLine : (s.setPhase p).resetLine = s.resetLine := rfl
@[simp] theorem State.setPhase_outputs : (s.setPhase p).outputs = s.outputs := rfl
end

section
variable (s : State) (rest : List Byte)
@[simp] theorem State.consumeTo_params : (s.consumeTo rest).params = s.params := rfl
@[simp] theorem State.consumeTo_cfg : (s.consumeTo rest).cfg = s.cfg := rfl
@[simp] theorem State.consumeTo_ring : (s.consumeTo rest).ring = s.ring := rfl
@[simp] theorem State.consumeTo_sync : (s.consumeTo rest).sync = s.sync := rfl
@[simp] theorem State.consumeTo_frame : (s.consumeTo rest).frame = s.frame := rfl
@[simp] theorem State.consumeTo_pbuf : (s.consumeTo rest).pbuf = s.pbuf := rfl
@[simp] theorem State.consumeTo_flags : (s.consumeTo rest).flags = s.flags := rfl
@[simp] theorem State.consumeTo_cmdIn : (s.consumeTo rest).cmdIn = rest := rfl
@[simp] theorem State.consumeTo_resetLine : (s.consumeTo rest).resetLine = s.resetLine := rfl
@[simp] theorem State.consumeTo_outputs : (s.consumeTo rest).outputs = s.outputs := rfl
end

section
variable (s : State) (bytes : List Byte)
@[simp] theorem State.issue_params : (s.issue bytes).params = s.params := rfl
@[simp] theorem State.issue_cfg : (s.issue bytes).cfg = s.cfg := rfl
@[simp] theorem State.issue_ring : (s.issue bytes).ring = s.ring := rfl
@[simp] theorem State.issue_sync : (s.issue bytes).sync = s.sync := rfl
@[simp] theorem State.issue_frame : (s.issue bytes).frame = s.frame := rfl
@[simp] theorem State.issue_pbuf : (s.issue bytes).pbuf = s.pbuf := rfl
@[simp] theorem State.issue_flags : (s.issue bytes).flags = s.flags := rfl
@[simp] theorem State.issue_cmdIn : (s.issue bytes).cmdIn = s.cmdIn ++ bytes := rfl
@[simp] theorem State.issue_resetLine : (s.issue bytes).resetLine = s.resetLine := rfl
@[simp] theorem State.issue_outputs : (s.issue bytes).outputs = s.outputs := rfl
end

section
variable (s : State)
@[simp] theorem State.assertReset_params : s.assertReset.params = s.params := rfl
@[simp] theorem State.assertReset_cfg : s.assertReset.cfg = s.cfg := rfl
@[simp] theorem State.assertReset_ring : s.assertReset.ring = s.ring := rfl
@[simp] theorem State.assertReset_sync : s.assertReset.sync = s.sync := rfl
@[simp] theorem State.assertReset_frame : s.assertReset.frame = s.frame := rfl
@[simp] theorem State.assertReset_pbuf : s.assertReset.pbuf = s.pbuf := rfl
@[simp] theorem State.assertReset_flags : s.assertReset.flags = s.flags := rfl
@[simp] theorem State.assertReset_cmdIn : s.assertReset.cmdIn = s.cmdIn := rfl
@[simp] theorem State.assertReset_resetLine : s.assertReset.resetLine = true := rfl
@[simp] theorem State.assertReset_outputs : s.assertReset.outputs = s.outputs := rfl
end

section
variable (s : State)
@[simp] theorem State.hardReset_params : s.hardReset.params = s.params := rfl
@[simp] theorem State.hardReset_cfg : s.hardReset.cfg = ChannelConfig.reset := rfl
@[simp] theorem State.hardReset_ring : s.hardReset.ring = RingBuffer.reset := rfl
@[simp] theorem State.hardReset_sync : s.hardReset.sync = Synchronizer.reset := rfl
@[simp] theorem State.hardReset_frame : s.hardReset.frame = Frame.reset := rfl
@[simp] theorem State.hardReset_pbuf : s.hardReset.pbuf = [] := rfl
@[simp] theorem State.hardReset_flags : s.hardReset.flags = StickyFlags.reset := rfl
@[simp] theorem State.hardReset_cmdIn : s.hardReset.cmdIn = s.cmdIn := rfl
@[simp] theorem State.hardReset_resetLine : s.hardReset.resetLine = false := rfl
@[simp] theorem State.hardReset_outputs : s.hardReset.outputs = s.outputs := rfl
end

/-! ## The recovery, one equation per error -/

@[simp] theorem State.recover_overflow (s : State) : s.recover .overflow = s.channelReset.setOvf := rfl
@[simp] theorem State.recover_header (s : State) : s.recover .header = s.headerFail := rfl
@[simp] theorem State.recover_checksum (s : State) : s.recover .checksum = s.checksumFail := rfl

/-! ## Bytes of the stores -/

@[simp] theorem State.ringByte_def (s : State) (i : Nat) : s.ringByte i = Memory.read s.ring.store i := rfl
@[simp] theorem State.pbufByte_def (s : State) (i : Nat) : s.pbufByte i = Memory.read s.pbuf i := rfl

end Sys2Proof.Machine
end

