-- ==== Sys2Proof/Laws/Memory.lean ====
section
/-! SUPPORT. The laws of the byte stores: a read after a write, the canonical form and the bounds that every operation
keeps, and one lemma per shared access that says when it answers what. -/

namespace Sys2Proof.Machine

@[simp] theorem Memory.read_nil (a : Nat) : Memory.read [] a = none := rfl

/-- A read after a write to the same place gives the value written. -/
theorem Memory.read_write_same (m : Memory) (a : Nat) (v : Byte) : (Memory.write m a v).read a = some v := by
  induction m with
  | nil => simp [Memory.write, Memory.read]
  | cons c m ih =>
    obtain ⟨x, w⟩ := c
    unfold Memory.write
    split
    · simp [Memory.read]
    · split
      · simp [Memory.read]
      · next h => simp [Memory.read, h, ih]

/-- A write leaves every other place alone. -/
theorem Memory.read_write_other (m : Memory) (a b : Nat) (v : Byte) (h : b ≠ a) :
    (Memory.write m a v).read b = m.read b := by
  induction m with
  | nil => simp [Memory.write, Memory.read, h]
  | cons c m ih =>
    obtain ⟨x, w⟩ := c
    unfold Memory.write
    split
    · simp [Memory.read, h]
    · split
      · next hax => subst hax; simp [Memory.read, h]
      · simp only [Memory.read, ih]

/-- The indices a write lists are the written one and those listed before. -/
theorem Memory.mem_write {m : Memory} {a : Nat} {v : Byte} {c : Host.Cell} (h : c ∈ Memory.write m a v) :
    c = (a, v) ∨ c ∈ m := by
  induction m with
  | nil => exact .inl (by simpa [Memory.write] using h)
  | cons d m ih =>
    obtain ⟨x, w⟩ := d
    unfold Memory.write at h
    split at h
    · simpa using h
    · split at h
      · rcases List.mem_cons.1 h with h | h
        · exact .inl h
        · exact .inr (List.mem_cons_of_mem _ h)
      · rcases List.mem_cons.1 h with h | h
        · exact .inr (h ▸ List.mem_cons_self)
        · exact (ih h).imp_right (List.mem_cons_of_mem _)

/-- A write keeps the canonical form. -/
theorem Memory.wf_write {m : Memory} (h : Memory.wf m) (a : Nat) (v : Byte) : Memory.wf (Memory.write m a v) := by
  induction m with
  | nil => simp [Memory.write, Memory.wf]
  | cons c m ih =>
    obtain ⟨x, w⟩ := c
    obtain ⟨hx, hm⟩ := List.pairwise_cons.1 h
    unfold Memory.write
    split
    · next hax =>
      refine List.pairwise_cons.2 ⟨fun d hd => ?_, h⟩
      rcases List.mem_cons.1 hd with rfl | hd
      · exact hax
      · exact Nat.lt_trans hax (hx d hd)
    · split
      · next hax => exact List.pairwise_cons.2 ⟨fun d hd => hax ▸ hx d hd, hm⟩
      · next h1 h2 =>
        refine List.pairwise_cons.2 ⟨fun d hd => ?_, ih hm⟩
        rcases Memory.mem_write hd with rfl | hd
        · exact by show x < a; omega
        · exact hx d hd

/-- A write inside a store keeps every listed index inside it. -/
theorem Memory.within_write {size : Nat} {m : Memory} (h : Memory.within size m) {a : Nat} (ha : a < size) (v : Byte) :
    Memory.within size (Memory.write m a v) := by
  intro c hc
  rcases Memory.mem_write hc with rfl | hc
  · exact ha
  · exact h c hc

/-- Everything `readCell` can do: inside the store it answers the byte written there, or `unwrittenByte`. -/
theorem readCell_eq_ok {store : StoreName} {size : Nat} {m : Memory} {i : Nat} {b : Byte} :
    readCell store size m i = .ok b ↔ i < size ∧ m.read i = some b := by
  unfold readCell
  by_cases h : i < size
  · cases hr : m.read i <;> simp [h]
  · simp [h]

/-- The faults of `readCell`. -/
theorem readCell_eq_error {store : StoreName} {size : Nat} {m : Memory} {i : Nat} {f : Fault} :
    readCell store size m i = .error f ↔
      (size ≤ i ∧ f = .indexOutOfRange store) ∨ (i < size ∧ m.read i = none ∧ f = .unwrittenByte store) := by
  unfold readCell
  by_cases h : i < size
  · cases hr : m.read i <;> simp [h, Nat.not_le.2 h, eq_comm]
  · simp [h, Nat.le_of_not_lt h, eq_comm]

/-- Everything `writeCell` can do. -/
theorem writeCell_eq_ok {store : StoreName} {size : Nat} {m m' : Memory} {i : Nat} {b : Byte} :
    writeCell store size m i b = .ok m' ↔ i < size ∧ m' = m.write i b := by
  unfold writeCell
  by_cases h : i < size <;> simp [h, eq_comm]

/-- `readCells` answers exactly when every byte of the range lies in the store and is written, and then with those bytes. -/
theorem readCells_eq_ok {store : StoreName} {size : Nat} {m : Memory} {i n : Nat} {bs : List Byte} :
    readCells store size m i n = .ok bs ↔
      bs.length = n ∧ ∀ (k : Nat) (h : k < bs.length), i + k < size ∧ m.read (i + k) = some bs[k] := by
  induction n generalizing i bs with
  | zero =>
    constructor
    · intro h; cases h; simp
    · rintro ⟨h, -⟩; rw [List.length_eq_zero_iff.1 h]; rfl
  | succ n ih =>
    unfold readCells
    constructor
    · intro h
      split at h
      · cases h
      · next b hb =>
        split at h
        · cases h
        · next tail ht =>
          cases h
          obtain ⟨hl, hk⟩ := ih.1 ht
          refine ⟨by simp [hl], fun k hk' => ?_⟩
          cases k with
          | zero => simpa using readCell_eq_ok.1 hb
          | succ k =>
            have := hk k (by simpa using hk')
            simpa [Nat.add_assoc, Nat.add_comm 1 k] using this
    · rintro ⟨hl, hk⟩
      cases bs with
      | nil => simp at hl
      | cons b tail =>
        have h0 := hk 0 (by simp)
        rw [readCell_eq_ok.2 (by simpa using h0)]
        have ht : readCells store size m (i + 1) n = .ok tail := by
          refine ih.2 ⟨by simpa using hl, fun k hk' => ?_⟩
          have := hk (k + 1) (by simpa using hk')
          simpa [Nat.add_assoc, Nat.add_comm 1 k] using this
        rw [ht]

/-- `readCells` reads nothing but its range. -/
theorem readCells_congr {store : StoreName} {size : Nat} {m m' : Memory} {i n : Nat}
    (h : ∀ k, k < n → m.read (i + k) = m'.read (i + k)) : readCells store size m i n = readCells store size m' i n := by
  induction n generalizing i with
  | zero => rfl
  | succ n ih =>
    have h0 : readCell store size m i = readCell store size m' i := by
      have := h 0 (by omega)
      simp only [Nat.add_zero] at this
      simp [readCell, this]
    have ht := ih (i := i + 1) fun k hk => by
      have := h (k + 1) (by omega)
      simpa [Nat.add_assoc, Nat.add_comm 1 k] using this
    simp [readCells, h0, ht]

end Sys2Proof.Machine
end

