-- ==== Sys2Proof/Laws/Ring.lean ====
section
/-! SUPPORT. The laws of the ring buffer: the count of unread bytes, and one lemma per operation that says everything it
can do. -/

namespace Sys2Proof.Machine

/-! ## RingCount -/

/-- The count depends on the cursors and on C only. -/
theorem State.ringCount_congr {s t : State} (hr : t.ring.rd = s.ring.rd) (hw : t.ring.wr = s.ring.wr)
    (hp : t.params = s.params) : t.ringCount = s.ringCount := by
  simp [State.ringCount, hr, hw, hp]

/-- The count stays below C (40_ring_buffer.md R101). -/
theorem State.ringCount_lt (s : State) (h : 0 < s.params.ringCapacity) : s.ringCount < s.params.ringCapacity := by
  have h1 := Int.emod_lt_of_pos ((s.ring.wr : Int) - s.ring.rd) (b := s.params.ringCapacity) (by omega)
  have h2 := Int.emod_nonneg ((s.ring.wr : Int) - s.ring.rd) (b := s.params.ringCapacity) (by omega)
  unfold State.ringCount
  omega

/-- Equal cursors mean an empty ring (40_ring_buffer.md R102). -/
theorem State.ringCount_eq_zero_of_eq {s : State} (h : s.ring.rd = s.ring.wr) : s.ringCount = 0 := by
  simp [State.ringCount, h]

/-- With the cursors in range, an empty ring means equal cursors (40_ring_buffer.md R102). -/
theorem State.ringCount_eq_zero_iff {s : State} (hr : s.ring.rd < s.params.ringCapacity)
    (hw : s.ring.wr < s.params.ringCapacity) : s.ringCount = 0 ↔ s.ring.rd = s.ring.wr := by
  refine ⟨fun h => ?_, State.ringCount_eq_zero_of_eq⟩
  unfold State.ringCount at h
  have h2 := Int.emod_nonneg ((s.ring.wr : Int) - s.ring.rd) (b := s.params.ringCapacity) (by omega)
  have hd : (s.params.ringCapacity : Int) ∣ (s.ring.wr : Int) - s.ring.rd := Int.dvd_of_emod_eq_zero (by omega)
  have := Int.eq_zero_of_abs_lt_dvd hd (by rw [abs_lt]; constructor <;> omega)
  omega

@[simp] theorem State.ringCount_ringClear (s : State) : s.ringClear.ringCount = 0 :=
  State.ringCount_eq_zero_of_eq rfl

/-- Taking one byte lowers a non-zero count by one, whatever the cursors. -/
theorem State.ringCount_advance {s t : State} (hc : 0 < s.params.ringCapacity) (h : s.ringCount ≠ 0)
    (hr : t.ring.rd = (s.ring.rd + 1) % s.params.ringCapacity) (hw : t.ring.wr = s.ring.wr) (hp : t.params = s.params) :
    t.ringCount + 1 = s.ringCount := by
  have h2 := Int.emod_nonneg ((s.ring.wr : Int) - s.ring.rd) (b := s.params.ringCapacity) (by omega)
  have h3 := Int.emod_lt_of_pos ((s.ring.wr : Int) - s.ring.rd) (b := s.params.ringCapacity) (by omega)
  have hk : ((s.ring.wr : Int) - s.ring.rd) % s.params.ringCapacity = s.ringCount := by
    unfold State.ringCount; omega
  have : ((t.ring.wr : Int) - t.ring.rd) % t.params.ringCapacity = (s.ringCount : Int) - 1 := by
    rw [hr, hw, hp, Int.natCast_mod, Int.sub_emod, Int.emod_emod_of_dvd _ (dvd_refl _), ← Int.sub_emod]
    have e : ((s.ring.wr : Int) - ((s.ring.rd + 1 : Nat) : Int)) = (s.ring.wr - s.ring.rd) - 1 := by push_cast; ring
    rw [e, Int.sub_emod, hk]
    by_cases h1 : s.params.ringCapacity = 1
    · have := State.ringCount_lt s hc; omega
    · rw [Int.emod_eq_of_lt (a := 1) (by omega) (by omega), Int.emod_eq_of_lt (by omega) (by omega)]
  unfold State.ringCount at this ⊢
  omega

/-! ## RingWrite -/

/-- Everything RingWrite can do (40_ring_buffer.md R103). -/
theorem State.ringWrite_eq_some {s t : State} {bytes : List Byte} : s.ringWrite bytes = some t ↔
    s.ringCount + bytes.length ≤ s.params.ringCapacity - 1 ∧
      t = { s with
        ring :=
          { store := storeBurst s.params.ringCapacity s.ring.wr bytes s.ring.store
            rd := s.ring.rd
            wr := (s.ring.wr + bytes.length) % s.params.ringCapacity } } := by
  unfold State.ringWrite
  by_cases h : s.ringCount + bytes.length > s.params.ringCapacity - 1
  · simp [h]
  · simp [h, Nat.le_of_not_lt h, eq_comm]

/-- RingWrite fails exactly when the burst does not fit (40_ring_buffer.md R103). -/
theorem State.ringWrite_eq_none {s : State} {bytes : List Byte} :
    s.ringWrite bytes = none ↔ s.params.ringCapacity - 1 < s.ringCount + bytes.length := by
  unfold State.ringWrite
  by_cases h : s.ringCount + bytes.length > s.params.ringCapacity - 1
  · simp [h]
  · simp [h]

/-- Storing a burst keeps the canonical form. -/
theorem storeBurst_wf (c at_ : Nat) (bytes : List Byte) {m : Memory} (h : Memory.wf m) :
    Memory.wf (storeBurst c at_ bytes m) := by
  induction bytes generalizing at_ m with
  | nil => exact h
  | cons b bytes ih => exact ih _ (Memory.wf_write h _ _)

/-- Storing a burst stays inside the ring store. -/
theorem storeBurst_within {c : Nat} (hc : 0 < c) (at_ : Nat) (bytes : List Byte) {m : Memory} (h : Memory.within c m) :
    Memory.within c (storeBurst c at_ bytes m) := by
  induction bytes generalizing at_ m with
  | nil => exact h
  | cons b bytes ih => exact ih _ (Memory.within_write h (Nat.mod_lt _ hc) _)

/-- Storing a burst leaves every slot it does not reach. -/
theorem read_storeBurst_other {c a : Nat} {bytes : List Byte} {m : Memory} {at_ : Nat}
    (h : ∀ i, i < bytes.length → a ≠ (at_ + i) % c) : Memory.read (storeBurst c at_ bytes m) a = m.read a := by
  induction bytes generalizing at_ m with
  | nil => rfl
  | cons b bytes ih =>
    rw [storeBurst, ih, Memory.read_write_other]
    · simpa using h 0 (by simp)
    · intro i hi
      have := h (i + 1) (by simpa using hi)
      rwa [Nat.add_assoc, Nat.add_comm 1 i]

/-- A burst no longer than the ring is stored byte by byte from `at_` on, modulo C. -/
theorem read_storeBurst {c : Nat} {bytes : List Byte} {m : Memory} {at_ : Nat} (hl : bytes.length ≤ c) {i : Nat}
    (h : i < bytes.length) : Memory.read (storeBurst c at_ bytes m) ((at_ + i) % c) = some bytes[i] := by
  induction bytes generalizing at_ m i with
  | nil => simp at h
  | cons b bytes ih =>
    rw [storeBurst]
    cases i with
    | zero =>
      rw [read_storeBurst_other, Nat.add_zero, Memory.read_write_same]
      · rfl
      · intro j hj heq
        have hj' : j + 1 < c := by simp at hl; omega
        have h1 : (at_ + 0) % c = (at_ + (1 + j)) % c := by rw [heq, Nat.add_assoc]
        have h2 : (0 : Nat) % c = (1 + j) % c := Nat.ModEq.add_left_cancel' at_ h1
        rw [Nat.zero_mod, Nat.mod_eq_of_lt (by omega)] at h2
        omega
    | succ i =>
      have := ih (at_ := at_ + 1) (m := m.write (at_ % c) b) (by simp at hl; omega) (i := i) (by simpa using h)
      rw [Nat.add_assoc, Nat.add_comm 1 i] at this
      simpa using this

/-! ## RingReadOne -/

/-- Everything RingReadOne can do when it answers (40_ring_buffer.md R104). -/
theorem State.ringReadOne_eq_ok {s t : State} {b : Byte} : s.ringReadOne = .ok (b, t) ↔
    s.ringCount ≠ 0 ∧ s.ring.rd < s.params.ringCapacity ∧ s.ring.store.read s.ring.rd = some b ∧
      t = { s with ring := { s.ring with rd := (s.ring.rd + 1) % s.params.ringCapacity } } := by
  unfold State.ringReadOne
  by_cases h : s.ringCount = 0
  · simp [h]
  · simp only [h, if_false, ne_eq, not_false_eq_true, true_and]
    split
    · next f hf =>
      constructor
      · intro h; cases h
      · rintro ⟨h1, h2, -⟩; rw [readCell_eq_ok.2 ⟨h1, h2⟩] at hf; cases hf
    · next b' hb =>
      obtain ⟨h1, h2⟩ := readCell_eq_ok.1 hb
      constructor
      · intro h; cases h; exact ⟨h1, h2, rfl⟩
      · rintro ⟨-, h4, rfl⟩; rw [h2] at h4; cases h4; rfl

/-- EmptyError comes from an empty ring only (60_exceptions.md R246). -/
theorem State.ringReadOne_emptyError {s : State} : s.ringReadOne = .error .emptyError ↔ s.ringCount = 0 := by
  unfold State.ringReadOne
  by_cases h : s.ringCount = 0
  · simp [h]
  · simp only [h, if_false, iff_false]
    split
    · next f hf =>
      intro h
      cases h
      rcases readCell_eq_error.1 hf with h | h <;> simp at h
    · intro h; cases h

end Sys2Proof.Machine
end

