-- ==== Sys2Proof/Laws/Receive.lean ====
section
/-! SUPPORT. What processing one byte can do, said once, and what the drain loop can do; the meanings of RECEIVE's claims
rest on these and unfold no handler again. -/

namespace Sys2Proof.Machine

/-! ## The frame of one byte -/

/-- What no byte changes, and how flags and outputs can grow: the parameters, the configuration, the command port and the
reset input stay, at most one packet record is emitted, OVF stays, and HERR and CERR are only ever set. -/
structure ByteFrame (s t : State) : Prop where
  params : t.params = s.params
  cfg : t.cfg = s.cfg
  cmdIn : t.cmdIn = s.cmdIn
  resetLine : t.resetLine = s.resetLine
  ovf : t.flags.ovf = s.flags.ovf
  herr : s.flags.herr = true → t.flags.herr = true
  cerr : s.flags.cerr = true → t.flags.cerr = true
  outputs : ∃ ps : List Packet, ps.length ≤ 1 ∧ t.outputs = s.outputs ++ ps.map .packet

theorem byteFrame_headerFail (s : State) : ByteFrame s s.headerFail :=
  ⟨rfl, rfl, rfl, rfl, rfl, fun _ => rfl, id, [], by simp⟩

theorem byteFrame_checksumFail (s : State) : ByteFrame s s.checksumFail :=
  ⟨rfl, rfl, rfl, rfl, rfl, id, fun _ => rfl, [], by simp⟩

/-- Deliver, once the payload is read (45_decoder.md R192). -/
theorem State.deliver_eq_ok {s t : State} : s.deliver = .ok t ↔
    ∃ p, s.receivedPayload = .ok p ∧
      t = (s.emitPacket { chan := s.cfg.chanId, type := s.frame.rxType, payload := p }).endFrame := by
  unfold State.deliver
  cases h : s.receivedPayload <;> simp [eq_comm]

theorem byteFrame_deliver {s t : State} (h : s.deliver = .ok t) : ByteFrame s t ∧ t.ring = s.ring := by
  obtain ⟨p, -, rfl⟩ := State.deliver_eq_ok.1 h
  exact ⟨⟨rfl, rfl, rfl, rfl, rfl, id, id, [_], by simp, rfl⟩, rfl⟩

/-- Complete, once the payload is read (45_decoder.md R191). -/
theorem State.complete_eq_ok {s t : State} : s.complete = .ok t ↔
    ∃ p, s.receivedPayload = .ok p ∧
      t = if csMatch s.frame.rxLen.toNat (checksum16 p) s.frame.rxCsx = true then
          (s.emitPacket { chan := s.cfg.chanId, type := s.frame.rxType, payload := p }).endFrame
        else s.checksumFail := by
  unfold State.complete
  cases h : s.receivedPayload with
  | error f => simp
  | ok p =>
    have hd : s.deliver = .ok (s.emitPacket { chan := s.cfg.chanId, type := s.frame.rxType, payload := p }).endFrame :=
      State.deliver_eq_ok.2 ⟨p, h, rfl⟩
    by_cases hc : csMatch s.frame.rxLen.toNat (checksum16 p) s.frame.rxCsx = true
    · simp only [hc, if_true, hd, Except.ok.injEq, exists_eq_left']
      exact eq_comm
    · simp only [hc, if_false, Except.ok.injEq, exists_eq_left', Bool.false_eq_true]
      exact eq_comm

theorem byteFrame_complete {s t : State} (h : s.complete = .ok t) : ByteFrame s t ∧ t.ring = s.ring := by
  obtain ⟨p, -, rfl⟩ := State.complete_eq_ok.1 h
  split
  · exact ⟨⟨rfl, rfl, rfl, rfl, rfl, id, id, [_], by simp, rfl⟩, rfl⟩
  · exact ⟨byteFrame_checksumFail s, rfl⟩

theorem byteFrame_lenDone (s : State) (v : Word) :
    ByteFrame s { s with frame := { s.frame with rxLen := v } }.lenDone ∧
      { s with frame := { s.frame with rxLen := v } }.lenDone.ring = s.ring := by
  unfold State.lenDone
  split <;> exact ⟨⟨rfl, rfl, rfl, rfl, rfl, by simp, by simp, [], by simp⟩, rfl⟩

theorem byteFrame_typeDone {s t : State} {v : Word} (h : { s with frame := { s.frame with rxType := v } }.typeDone = .ok t) :
    ByteFrame s t ∧ t.ring = s.ring := by
  unfold State.typeDone at h
  split at h
  · obtain ⟨hf, hr⟩ := byteFrame_deliver h
    exact ⟨⟨hf.params, hf.cfg, hf.cmdIn, hf.resetLine, hf.ovf, hf.herr, hf.cerr, hf.outputs⟩, hr⟩
  · cases h
    exact ⟨⟨rfl, rfl, rfl, rfl, rfl, id, id, [], by simp⟩, rfl⟩

/-- What a byte given to the decoder can change (45_decoder.md R180): never the ring. -/
theorem byteFrame_decodeStep {s t : State} {b : Byte} (h : s.decodeStep b = .ok t) : ByteFrame s t ∧ t.ring = s.ring := by
  unfold State.decodeStep at h
  split at h
  · cases h
    unfold State.stepLenB0
    split
    · split
      · exact ⟨byteFrame_headerFail s, rfl⟩
      · exact byteFrame_lenDone s _
    · split
      · exact ⟨byteFrame_headerFail s, rfl⟩
      · exact ⟨⟨rfl, rfl, rfl, rfl, rfl, id, id, [], by simp⟩, rfl⟩
  · cases h
    unfold State.stepLenB1
    split
    · exact ⟨byteFrame_headerFail s, rfl⟩
    · exact byteFrame_lenDone s _
  · unfold State.stepTypeB0 at h
    split at h
    · split at h
      · cases h; exact ⟨byteFrame_headerFail s, rfl⟩
      · exact byteFrame_typeDone h
    · split at h
      · cases h; exact ⟨byteFrame_headerFail s, rfl⟩
      · cases h; exact ⟨⟨rfl, rfl, rfl, rfl, rfl, id, id, [], by simp⟩, rfl⟩
  · unfold State.stepTypeB1 at h
    split at h
    · cases h; exact ⟨byteFrame_headerFail s, rfl⟩
    · exact byteFrame_typeDone h
  · cases h; exact ⟨⟨rfl, rfl, rfl, rfl, rfl, id, id, [], by simp [State.stepCsB0]⟩, rfl⟩
  · cases h; exact ⟨⟨rfl, rfl, rfl, rfl, rfl, id, id, [], by simp [State.stepCsB1]⟩, rfl⟩
  · unfold State.stepPayload at h
    split at h
    · cases h
    · simp only at h
      split at h
      · obtain ⟨hf, hr⟩ := byteFrame_complete h
        exact ⟨⟨hf.params, hf.cfg, hf.cmdIn, hf.resetLine, hf.ovf, hf.herr, hf.cerr, hf.outputs⟩, hr⟩
      · cases h; exact ⟨⟨rfl, rfl, rfl, rfl, rfl, id, id, [], by simp⟩, rfl⟩

/-- Everything SyncStep can do (41_synchronizer.md R121): complete the marker, or move the match count. -/
theorem State.syncStep_eq_ok {s t : State} {b : Byte} : s.syncStep b = .ok t ↔
    ∃ expected, s.cfg.marker[s.sync.m.toNat]? = some expected ∧
      t = if nextMatch s.sync.m expected s.cfg.marker[0] b = s.cfg.n then s.enterFrame
        else { s with sync := { s.sync with m := nextMatch s.sync.m expected s.cfg.marker[0] b } } := by
  unfold State.syncStep
  cases h : s.cfg.marker[s.sync.m.toNat]? with
  | none => simp
  | some e =>
    by_cases hn : nextMatch s.sync.m e s.cfg.marker[0] b = s.cfg.n
    · simp only [hn, if_true, Except.ok.injEq, Option.some.injEq, exists_eq_left']
      exact eq_comm
    · simp only [hn, if_false, Except.ok.injEq, Option.some.injEq, exists_eq_left']
      exact eq_comm

/-- Does this pass complete a marker? From HUNTING to IN_FRAME is the only way. -/
def locks (s t : State) : Prop := s.sync.mode = .hunting ∧ t.sync.mode = .inFrame

/-- What one byte can change (41_synchronizer.md R120): the ring stays as it was, or, exactly where a marker is completed,
is cleared (R123). -/
theorem byteFrame_processByte {s t : State} {b : Byte} (h : s.processByte b = .ok t) :
    ByteFrame s t ∧ ((locks s t ∧ t = s.enterFrame) ∨ (¬ locks s t ∧ t.ring = s.ring)) := by
  unfold State.processByte at h
  split at h
  · next hm =>
    obtain ⟨e, -, rfl⟩ := State.syncStep_eq_ok.1 h
    split
    · exact ⟨⟨rfl, rfl, rfl, rfl, rfl, id, id, [], by simp⟩, .inl ⟨⟨hm, rfl⟩, rfl⟩⟩
    · exact ⟨⟨rfl, rfl, rfl, rfl, rfl, id, id, [], by simp⟩, .inr ⟨by simp [locks, hm], rfl⟩⟩
  · next hm =>
    obtain ⟨hf, hr⟩ := byteFrame_decodeStep h
    exact ⟨hf, .inr ⟨by simp [locks, hm], hr⟩⟩

/-! ## Faults of one byte -/

/-- No byte raises EmptyError: only RingReadOne can (60_exceptions.md R246). -/
theorem State.processByte_ne_emptyError (s : State) (b : Byte) : s.processByte b ≠ .error .emptyError := by
  have hr : ∀ u : State, u.receivedPayload ≠ .error .emptyError := by
    intro u
    unfold State.receivedPayload
    generalize 0 = i
    induction u.frame.rxLen.toNat generalizing i with
    | zero => simp [readCells]
    | succ n ih =>
      unfold readCells
      split
      · next f hf =>
        rcases readCell_eq_error.1 hf with h | h <;> rintro ⟨⟩ <;> simp at h
      · split
        · next f hf => intro h; cases h; exact ih _ hf
        · simp
  have hd : ∀ u : State, u.deliver ≠ .error .emptyError := by
    intro u
    unfold State.deliver
    split
    · next f hf => intro h; cases h; exact hr u hf
    · simp
  have ht : ∀ u : State, u.typeDone ≠ .error .emptyError := by
    intro u
    unfold State.typeDone
    split
    · exact hd u
    · simp
  have hc : ∀ u : State, u.complete ≠ .error .emptyError := by
    intro u
    unfold State.complete
    split
    · next f hf => intro h; cases h; exact hr u hf
    · split
      · exact hd u
      · simp
  unfold State.processByte
  split
  · unfold State.syncStep
    split
    · simp
    · split <;> simp
  · unfold State.decodeStep
    split
    · simp
    · simp
    · unfold State.stepTypeB0
      split <;> split <;> simp [ht]
    · unfold State.stepTypeB1
      split <;> simp [ht]
    · simp
    · simp
    · unfold State.stepPayload
      split
      · next f hf =>
        unfold writeCell at hf
        split at hf
        · cases hf
        · cases hf; simp
      · simp only
        split
        · exact hc _
        · simp

/-! ## The drain loop -/

/-- One pass of the drain loop (46_commands.md R210). -/
theorem drain_succ_eq_ok {k : Nat} {s t : State} : drain (k + 1) s = .ok t ↔
    (s.ringCount = 0 ∧ t = s) ∨
    (s.ringCount ≠ 0 ∧ ∃ b s1 s2, s.ringReadOne = .ok (b, s1) ∧ s1.processByte b = .ok s2 ∧ drain k s2 = .ok t) := by
  rw [drain]
  by_cases h : s.ringCount = 0
  · simp [h, eq_comm]
  · simp only [h, if_false, false_and, false_or, ne_eq, not_false_eq_true, true_and]
    cases h1 : s.ringReadOne with
    | error f => simp
    | ok r =>
      obtain ⟨b, s1⟩ := r
      cases h2 : s1.processByte b with
      | error f => simp [h2]
      | ok s2 => simp [h2]

/-- The drain loop never reads an empty ring (40_ring_buffer.md R105). -/
theorem drain_ne_emptyError (k : Nat) (s : State) : drain k s ≠ .error .emptyError := by
  induction k generalizing s with
  | zero => simp [drain]
  | succ k ih =>
    unfold drain
    split
    · simp
    · next hne =>
      split
      · next f hf => intro h; cases h; exact hne (State.ringReadOne_emptyError.1 hf)
      · next b s1 hr =>
        split
        · next f hf => intro h; cases h; exact State.processByte_ne_emptyError s1 b hf
        · exact ih _

/-- After as many passes as there are unread bytes, the ring is empty: the loop of R210 has ended (46_commands.md R210,
"The loop always ends"). -/
theorem drain_ringCount {k : Nat} {s t : State} (hk : s.ringCount ≤ k) (h : drain k s = .ok t) : t.ringCount = 0 := by
  induction k generalizing s with
  | zero => cases h; omega
  | succ k ih =>
    rcases drain_succ_eq_ok.1 h with ⟨h0, rfl⟩ | ⟨h0, b, s1, s2, h1, h2, h3⟩
    · exact h0
    · obtain ⟨-, hrd, -, rfl⟩ := State.ringReadOne_eq_ok.1 h1
      refine ih ?_ h3
      obtain ⟨hf, ⟨-, rfl⟩ | ⟨-, hring⟩⟩ := byteFrame_processByte h2
      · have : State.ringCount (State.enterFrame { s with ring := { s.ring with
            rd := (s.ring.rd + 1) % s.params.ringCapacity } }) = 0 := State.ringCount_eq_zero_of_eq rfl
        omega
      · have := State.ringCount_advance (s := s) (t := s2) (by omega) h0 (by simp [hring]) (by simp [hring]) hf.params
        omega

/-- What a whole burst leaves unchanged, and how flags and outputs can grow. -/
structure BurstFrame (s t : State) : Prop where
  params : t.params = s.params
  cfg : t.cfg = s.cfg
  cmdIn : t.cmdIn = s.cmdIn
  resetLine : t.resetLine = s.resetLine
  store : t.ring.store = s.ring.store
  ovf : t.flags.ovf = s.flags.ovf
  herr : s.flags.herr = true → t.flags.herr = true
  cerr : s.flags.cerr = true → t.flags.cerr = true
  outputs : ∃ ps : List Packet, t.outputs = s.outputs ++ ps.map .packet

/-- The frame of the drain loop. -/
theorem burstFrame_drain {k : Nat} {s t : State} (h : drain k s = .ok t) : BurstFrame s t := by
  induction k generalizing s with
  | zero => cases h; exact ⟨rfl, rfl, rfl, rfl, rfl, rfl, id, id, [], by simp⟩
  | succ k ih =>
    rcases drain_succ_eq_ok.1 h with ⟨h0, rfl⟩ | ⟨h0, b, s1, s2, h1, h2, h3⟩
    · exact ⟨rfl, rfl, rfl, rfl, rfl, rfl, id, id, [], by simp⟩
    · obtain ⟨-, -, -, rfl⟩ := State.ringReadOne_eq_ok.1 h1
      obtain ⟨hf, hring⟩ := byteFrame_processByte h2
      have hs : s2.ring.store = s.ring.store := by
        rcases hring with ⟨-, rfl⟩ | ⟨-, hr⟩
        · rfl
        · rw [hr]
      have hb := ih h3
      obtain ⟨ps, -, hps⟩ := hf.outputs
      obtain ⟨qs, hqs⟩ := hb.outputs
      exact ⟨hb.params.trans hf.params, hb.cfg.trans hf.cfg, hb.cmdIn.trans hf.cmdIn, hb.resetLine.trans hf.resetLine,
        hb.store.trans hs, hb.ovf.trans hf.ovf, fun x => hb.herr (hf.herr x), fun x => hb.cerr (hf.cerr x), ps ++ qs,
        by simp [hqs, hps]⟩

end Sys2Proof.Machine
end

