-- ==== Sys2Proof/Laws/Commands.lean ====
section
/-! SUPPORT. What RECEIVE can answer, said once, and that no meaning refuses: the inversion lemmas that the claims over all
commands start from. -/

namespace Sys2Proof.Machine

/-- Everything a RECEIVE that goes on can do (46_commands.md R210, R214): refuse while unconfigured, recover from the
overflow, or drain the burst. -/
theorem execReceive_eq_next {data : List Byte} {s t : State} : execReceive data s = .next t ↔
    (s.cfg.valid = false ∧ t = s.respond .notConfigured) ∨
    (s.cfg.valid = true ∧ s.ringWrite data = none ∧ t = (s.recover .overflow).respond .ok) ∨
    (s.cfg.valid = true ∧ ∃ s1 s2, s.ringWrite data = some s1 ∧ drain s1.ringCount s1 = .ok s2 ∧ t = s2.respond .ok) := by
  unfold execReceive
  cases hv : s.cfg.valid with
  | false =>
    simp only [Bool.false_eq_true, if_false, Host.Outcome.next.injEq, true_and, false_and, or_false]
    exact eq_comm
  | true =>
    simp only [if_true, true_and, Bool.true_eq_false, false_and, false_or]
    cases hw : s.ringWrite data with
    | none =>
      simp only [Host.Outcome.next.injEq, true_and, reduceCtorEq, false_and, exists_false, or_false]
      exact eq_comm
    | some s1 =>
      simp only [reduceCtorEq, false_and, false_or, Option.some.injEq, exists_and_left, exists_eq_left']
      cases hd : drain s1.ringCount s1 with
      | error f => simp
      | ok s2 =>
        simp only [Host.Outcome.next.injEq, Except.ok.injEq, exists_eq_left']
        exact eq_comm

/-- The faults of RECEIVE are those of the drain loop. -/
theorem execReceive_eq_fault {data : List Byte} {s : State} {f : Fault} (h : execReceive data s = .fault f) :
    ∃ s1, s.ringWrite data = some s1 ∧ drain s1.ringCount s1 = .error f := by
  unfold execReceive at h
  split at h
  · split at h
    · cases h
    · next s1 hw =>
      split at h
      · next f' hd => cases h; exact ⟨s1, hw, hd⟩
      · cases h
  · cases h

/-- No meaning refuses. -/
theorem exec_ne_refused (i : Instr) (s : State) (r : Refusal) : exec i s ≠ .refused r := by
  cases i <;> simp only [exec, execConfigure, execReceive, execSend, execResync, execReadReg, execClearStatus]
  all_goals repeat' split
  all_goals simp

end Sys2Proof.Machine
end

