-- ==== Sys2Proof/Laws/Decode.lean ====
section
/-! SUPPORT. The laws of the byte-order helpers, of the FLAGS byte, of the opcode map and of `takeBytes`, from which the
claims about decoding and encoding are assembled. -/

namespace Sys2Proof

/-- `u16(lo, hi) = lo + 256·hi` (30_encoding.md R84). -/
theorem u16_toNat (lo hi : Byte) : (u16 lo hi).toNat = lo.toNat + 256 * hi.toNat := by
  have h1 := lo.isLt
  rw [u16, BitVec.toNat_append, ← Nat.shiftLeft_add_eq_or_of_lt h1, Nat.shiftLeft_eq]
  omega

theorem loByte_toNat (w : Word) : (loByte w).toNat = w.toNat % 256 := by
  simp [loByte]

theorem hiByte_toNat (w : Word) : (hiByte w).toNat = w.toNat / 256 := by
  have := w.isLt
  simp only [hiByte, BitVec.extractLsb'_toNat, Nat.shiftRight_eq_div_pow]
  omega

@[simp] theorem u16_loByte_hiByte (w : Word) : u16 (loByte w) (hiByte w) = w := by
  apply BitVec.eq_of_toNat_eq
  rw [u16_toNat, loByte_toNat, hiByte_toNat]
  omega

@[simp] theorem loByte_u16 (lo hi : Byte) : loByte (u16 lo hi) = lo := by
  apply BitVec.eq_of_toNat_eq
  have := lo.isLt
  rw [loByte_toNat, u16_toNat]
  omega

@[simp] theorem hiByte_u16 (lo hi : Byte) : hiByte (u16 lo hi) = hi := by
  apply BitVec.eq_of_toNat_eq
  have := lo.isLt
  rw [hiByte_toNat, u16_toNat]
  omega

/-! ## The FLAGS byte (30_encoding.md R72) -/

@[simp] theorem flagsMlen_flagsByte (k : BitVec 4) (lf tf : Form) (r : BitVec 2) : flagsMlen (flagsByte k lf tf r) = k := by
  revert k r; cases lf <;> cases tf <;> decide

@[simp] theorem flagsLenForm_flagsByte (k : BitVec 4) (lf tf : Form) (r : BitVec 2) :
    flagsLenForm (flagsByte k lf tf r) = lf := by
  revert k r; cases lf <;> cases tf <;> decide

@[simp] theorem flagsTypeForm_flagsByte (k : BitVec 4) (lf tf : Form) (r : BitVec 2) :
    flagsTypeForm (flagsByte k lf tf r) = tf := by
  revert k r; cases lf <;> cases tf <;> decide

@[simp] theorem flagsReserved_flagsByte (k : BitVec 4) (lf tf : Form) (r : BitVec 2) :
    flagsReserved (flagsByte k lf tf r) = r := by
  revert k r; cases lf <;> cases tf <;> decide

/-! ## The opcode map (30_encoding.md R85) -/

@[simp] theorem Opcode.ofByte_byte (o : Opcode) : Opcode.ofByte o.byte = some o := by
  cases o <;> rfl

/-- Every row matches the whole byte: the map sends no two bytes to one opcode (30_encoding.md R85). -/
theorem Opcode.ofByte_eq_some {b : Byte} {o : Opcode} : Opcode.ofByte b = some o ↔ b = o.byte := by
  constructor
  · intro h
    unfold Opcode.ofByte at h
    repeat' split at h
    all_goals first | (cases h; assumption) | cases h
  · rintro rfl; exact Opcode.ofByte_byte o

/-! ## Lists of bytes -/

@[simp] theorem takeBytes_append (a rest : List Byte) : takeBytes a.length (a ++ rest) = some (a, rest) := by
  simp [takeBytes]

/-- Everything `takeBytes` can do. -/
theorem takeBytes_eq_some {n : Nat} {bs a rest : List Byte} :
    takeBytes n bs = some (a, rest) ↔ a.length = n ∧ bs = a ++ rest := by
  unfold takeBytes
  constructor
  · intro h
    split at h
    · next hn => cases h; simp [hn]
    · cases h
  · rintro ⟨rfl, rfl⟩; simp

/-- `takeBytes` fails exactly where there are too few bytes. -/
theorem takeBytes_eq_none {n : Nat} {bs : List Byte} : takeBytes n bs = none ↔ bs.length < n := by
  unfold takeBytes
  split <;> simp_all

/-- A list's length comes back from its two length bytes, where it fits them (20_memory.md R55). -/
theorem u16_lengthBytes {bs : List Byte} (h : bs.length ≤ 65535) :
    (u16 (loByte (BitVec.ofNat 16 bs.length)) (hiByte (BitVec.ofNat 16 bs.length))).toNat = bs.length := by
  rw [u16_loByte_hiByte, BitVec.toNat_ofNat]
  omega

end Sys2Proof
end

