-- ==== Sys2Proof/Laws/PerInstr.lean ====
section
/-! SUPPORT. Statements made per constructor of `Instr`. EncodedLength: the length rule of the command stream
(30_encoding.md R77) gives an encoded command the length it has, whatever follows it. -/

namespace Sys2Proof.Laws.EncodedLength

/-- The length rule gives the encoded command's own length (30_encoding.md R77). -/
def Statement (i : Instr) : Prop :=
  i.wf = true → ∀ rest : List Byte, commandLength (encode i ++ rest) = some (encode i).length

theorem configure (chan : Byte) (lf tf : Form) (rsv : BitVec 2) (mk : List Byte) :
    Statement (.configure chan lf tf rsv mk) := by
  intro h rest
  have h : mk.length ≤ 15 := by simpa [Instr.wf] using h
  simp only [encode, Instr.opcode, Instr.operandBytes, List.cons_append, List.nil_append, commandLength, Opcode.ofByte_byte,
    Opcode.format, flagsMlen_flagsByte, BitVec.toNat_ofNat, List.length_cons, Nat.mod_eq_of_lt (show mk.length < 2 ^ 4 by omega)]
  congr 1; omega

theorem receive (data : List Byte) : Statement (.receive data) := by
  intro h rest
  have h : data.length ≤ 65535 := by simpa [Instr.wf] using h
  simp only [encode, Instr.opcode, Instr.operandBytes, lengthBytes, List.cons_append, List.nil_append, commandLength,
    Opcode.ofByte_byte, Opcode.format, u16_lengthBytes h, List.length_cons]
  congr 1; omega

theorem send (type : Word) (payload : List Byte) : Statement (.send type payload) := by
  intro h rest
  have h : payload.length ≤ 65535 := by simpa [Instr.wf] using h
  simp only [encode, Instr.opcode, Instr.operandBytes, lengthBytes, List.cons_append, List.nil_append, commandLength,
    Opcode.ofByte_byte, Opcode.format, u16_lengthBytes h, List.length_cons]
  congr 1; omega

theorem resync : Statement .resync := by
  intro _ rest
  simp [encode, Instr.opcode, Instr.operandBytes, commandLength, Opcode.format]

theorem readReg (regnum : Byte) : Statement (.readReg regnum) := by
  intro _ rest
  simp [encode, Instr.opcode, Instr.operandBytes, commandLength, Opcode.format]

theorem clearStatus : Statement .clearStatus := by
  intro _ rest
  simp [encode, Instr.opcode, Instr.operandBytes, commandLength, Opcode.format]

end Sys2Proof.Laws.EncodedLength
end

