-- ==== Sys2Proof/Tests/Slice0.lean ====
section
/-! SUPPORT. The model's own tests: ill-formed terms that `Instr.wf` refuses, words written out from the spec's encodings,
vectors of 95_test_vectors.md one step at a time, and for every statement with hypotheses a concrete case that meets
them all. -/

namespace Sys2Proof.Tests

open Sys2Proof Sys2Proof.Machine

/-! ## Helpers -/

/-- A small engine (00_scope.md R9 allows C from 2 and MAX_PAYLOAD from 0). -/
def small : Params := { ringCapacity := 16, numChannels := 10, maxPayload := 40 }

/-- Configured as channel 3 with marker AA 55, HUNTING. -/
def hunting (lf tf : Form) : State :=
  { State.initial small with cfg := configOf 3 lf tf [0xAA, 0x55] }

/-- IN_FRAME, the frame in progress given. -/
def inPhase (lf tf : Form) (phase : Phase) (len type csx count : Word) (pbuf : Memory) : State :=
  { hunting lf tf with sync := { mode := .inFrame, m := 0 }, frame := ⟨phase, len, type, csx, count⟩, pbuf := pbuf }

/-- Does the outcome go on to a state that passes? -/
def goesOn (o : Host.Outcome State Fault Refusal) (p : State → Bool) : Bool :=
  match o with
  | .next t => p t
  | .fault _ => false
  | .refused _ => false

/-- Three payload bytes of W2 (95_test_vectors.md) received, the fourth missing. -/
def beforeLast : State := inPhase .one .two .payload 4 0x1001 0xA0 3 [(0, 0x10), (1, 0x20), (2, 0x30)]

/-- The invariant as one Bool, so that a concrete state's is decided. -/
def invCheck (s : State) : Bool :=
  (decide s.params.legal && decide (s.cfg.valid = false →
    s.cfg = ChannelConfig.reset ∧ s.sync = Synchronizer.reset ∧ s.frame = Frame.reset ∧
      s.flags = StickyFlags.reset ∧ s.ring.rd = s.ring.wr)) &&
  (decide (s.cfg.valid = true → 1 ≤ s.cfg.n.toNat ∧ s.cfg.n.toNat ≤ 8 ∧ s.cfg.chanId.toNat < s.params.numChannels ∧
      (s.sync.mode = .hunting → s.sync.m.toNat < s.cfg.n.toNat)) &&
    decide ((s.sync.mode = .inFrame → s.sync.m = 0) ∧ (s.sync.mode = .hunting → s.frame = Frame.reset))) &&
  (decide (s.ringCount = 0 ∧ s.ring.rd < s.params.ringCapacity ∧ s.ring.wr < s.params.ringCapacity) &&
    decide (Memory.wf s.ring.store ∧ Memory.within s.params.ringCapacity s.ring.store)) &&
  (decide (Memory.wf s.pbuf ∧ Memory.within s.params.maxPayload s.pbuf) &&
    decide (∀ (i : Nat) (h : i < 8), s.cfg.n.toNat ≤ i → s.cfg.marker[i] = 0)) &&
  decide (∀ i : Nat, i < s.frame.rxCount.toNat → (s.pbufByte i).isSome = true)

/-- A HUNTING state that passes the check meets the invariant. -/
theorem inv_of_hunting {s : State} (h : invCheck s = true) (hm : s.sync.mode = .hunting) : s.Inv := by
  simp only [invCheck, Bool.and_eq_true, decide_eq_true_eq] at h
  obtain ⟨⟨⟨⟨⟨h1, h2⟩, h3, h4, h5⟩, ⟨h6, h7⟩, h8, h9⟩, ⟨h10, h11⟩, h12⟩, h13⟩ := h
  have no : s.sync.mode ≠ .inFrame := by simp [hm]
  exact ⟨h1, h2, h3, h4, h5, fun e => absurd e no, h6, h7, h8, h9, h10, h11, h12, fun e => absurd e no, h13⟩

/-- Of an IN_FRAME state, the two clauses on the frame in progress are given apart. -/
theorem inv_of_inFrame {s : State} (h : invCheck s = true) (hs : s.FrameShape) (hf : s.FieldsAsReceived) : s.Inv := by
  simp only [invCheck, Bool.and_eq_true, decide_eq_true_eq] at h
  obtain ⟨⟨⟨⟨⟨h1, h2⟩, h3, h4, h5⟩, ⟨h6, h7⟩, h8, h9⟩, ⟨h10, h11⟩, h12⟩, h13⟩ := h
  exact ⟨h1, h2, h3, h4, h5, hs, h6, h7, h8, h9, h10, h11, h12, hf, h13⟩

theorem inv_hunting (lf tf : Form) : (hunting lf tf).Inv := by
  cases lf <;> cases tf <;> exact inv_of_hunting (by decide +kernel) rfl

theorem inv_unconfigured : (State.initial small).Inv := inv_of_hunting (by decide +kernel) rfl

theorem inv_lenB0 (lf tf : Form) : (inPhase lf tf .lenB0 0 0 0 0 []).Inv := by
  cases lf <;> cases tf <;>
    exact inv_of_inFrame (by decide +kernel) (by simp [State.FrameShape, inPhase, Phase.code])
      (by simp [State.FieldsAsReceived, inPhase, Phase.code])

theorem inv_lenB1 : (inPhase .two .one .lenB1 5 0 0 0 []).Inv :=
  inv_of_inFrame (by decide +kernel) (by simp [State.FrameShape, inPhase, hunting, configOf, Phase.code])
    (by simp [State.FieldsAsReceived, inPhase, Phase.code])

theorem inv_typeB0 (tf : Form) (len : Word) (h : len = 0 ∨ len = 4) : (inPhase .one tf .typeB0 len 0 0 0 []).Inv := by
  rcases h with rfl | rfl <;> cases tf <;>
    exact inv_of_inFrame (by decide +kernel)
      (by simp [State.FrameShape, inPhase, hunting, configOf, State.initial, small, Phase.code, fitsForm])
      (by simp [State.FieldsAsReceived, inPhase, Phase.code])

theorem inv_typeB1 (len : Word) (h : len = 0 ∨ len = 4) : (inPhase .one .two .typeB1 len 1 0 0 []).Inv := by
  rcases h with rfl | rfl <;>
    exact inv_of_inFrame (by decide +kernel)
      (by simp [State.FrameShape, inPhase, hunting, configOf, State.initial, small, Phase.code, fitsForm])
      (by simp [State.FieldsAsReceived, inPhase, Phase.code])

theorem inv_csB0 (len : Word) (h : len = 31 ∨ len = 32) : (inPhase .one .two .csB0 len 0x1001 0 0 []).Inv := by
  rcases h with rfl | rfl <;>
    exact inv_of_inFrame (by decide +kernel)
      (by simp [State.FrameShape, inPhase, hunting, configOf, State.initial, small, Phase.code, fitsForm])
      (by simp [State.FieldsAsReceived, inPhase, hunting, configOf, Phase.code, fitsForm])

theorem inv_csB1 : (inPhase .one .two .csB1 32 0x1001 0xE0 0 []).Inv :=
  inv_of_inFrame (by decide +kernel)
    (by simp [State.FrameShape, inPhase, hunting, configOf, State.initial, small, Phase.code, fitsForm])
    (by simp [State.FieldsAsReceived, inPhase, hunting, configOf, Phase.code, fitsForm])

theorem inv_beforeLast : beforeLast.Inv :=
  inv_of_inFrame (by decide +kernel)
    (by simp [State.FrameShape, beforeLast, inPhase, hunting, configOf, State.initial, small, Phase.code, fitsForm])
    (by simp [State.FieldsAsReceived, beforeLast, inPhase, hunting, configOf, Phase.code, fitsForm])

/-! ## WellFormed: ill-formed terms are refused -/

theorem test_wf_refuses_marker_of_16 : (Instr.configure 0 .one .one 0 (List.replicate 16 0xAA#8)).wf = false := by decide
theorem test_wf_refuses_burst_of_65536 : (Instr.receive (List.replicate 65536 0x00#8)).wf = false := by
  rw [Instr.wf, List.length_replicate]; decide
theorem test_wf_refuses_payload_of_65536 : (Instr.send 0 (List.replicate 65536 0x00#8)).wf = false := by
  rw [Instr.wf, List.length_replicate]; decide
/-- A bad marker length, reserved bits and a type out of range are commands the engine answers (30_encoding.md R77, R87). -/
theorem test_wf_admits_what_the_engine_refuses :
    (Instr.configure 255 .two .two 3 (List.replicate 15 0xAA#8)).wf = true ∧ (Instr.send 0xFFFF [0x00#8]).wf = true := by
  decide

/-! ## Decoding: words written out from 30_encoding.md R72 and R85 -/

/-- FLAGS = TF·32 + LF·16 + MLEN: 0x22 is TWO, ONE, 2 (R72; the example of R96). -/
theorem test_decode_configure :
    decode [0x01#8, 0x00#8, 0x22#8, 0xAA#8, 0x55#8] = .command (.configure 0 .one .two 0 [0xAA#8, 0x55#8]) [] := by decide
/-- 0xD3 is reserved 3, TF 0, LF 1, MLEN 3 (R72). -/
theorem test_decode_configure_reserved :
    decode [0x01#8, 0x09#8, 0xD3#8, 0x01#8, 0x02#8, 0x03#8, 0x06#8] =
      .command (.configure 9 .two .one 3 [0x01#8, 0x02#8, 0x03#8]) [0x06#8] := by decide
theorem test_decode_receive :
    decode [0x02#8, 0x02#8, 0x00#8, 0xAA#8, 0x55#8, 0x04#8] = .command (.receive [0xAA#8, 0x55#8]) [0x04#8] := by decide
/-- W2: type 0x1001 is sent 01 10, low byte first (R79). -/
theorem test_decode_send :
    decode [0x03#8, 0x01#8, 0x10#8, 0x04#8, 0x00#8, 0x10#8, 0x20#8, 0x30#8, 0x40#8] =
      .command (.send 0x1001#16 [0x10#8, 0x20#8, 0x30#8, 0x40#8]) [] := by decide
theorem test_decode_resync : decode [0x04#8, 0x04#8] = .command .resync [0x04#8] := by decide
theorem test_decode_readReg : decode [0x05#8, 0x0C#8] = .command (.readReg 0x0C#8) [] := by decide
theorem test_decode_clearStatus : decode [0x06#8] = .command .clearStatus [] := by decide
/-- 0x00 and 0x07..0xFF are illegal, and nothing else is (R86). -/
theorem test_decode_illegal : ∀ b : Byte, (Opcode.ofByte b = none) ↔ (b.toNat = 0 ∨ 7 ≤ b.toNat) := by decide
/-- A command cut off waits (R78). -/
theorem test_decode_incomplete :
    decode [0x01#8, 0x00#8, 0x02#8, 0xAA#8] = .incomplete ∧ decode [0x02#8, 0x00#8] = .incomplete ∧
      decode [0x03#8, 0x00#8, 0x00#8, 0x01#8, 0x00#8] = .incomplete ∧ decode [0x05#8] = .incomplete ∧
      decode [] = .incomplete := by decide
/-- No two opcodes share a byte (R85). -/
theorem test_opcodes_do_not_overlap : ∀ a b : List.toFinset [0x01#8, 0x02#8, 0x03#8, 0x04#8, 0x05#8, 0x06#8],
    Opcode.ofByte a = Opcode.ofByte b → a = b := by decide
theorem test_register_numbers_do_not_overlap : (RegName.all.map RegName.number).Nodup ∧ RegName.all.length = 13 := by decide
/-- The rows of the opcode table, their operand bits all 0, as the table numbers them. -/
theorem test_decodeTableWord :
    [1, 2, 3, 4, 5, 6].map (decodeTableWord 8) =
      [some (.configure 0 .one .one 0 []), some (.receive []), some (.send 0 []), some .resync, some (.readReg 0),
        some .clearStatus] ∧ decodeTableWord 8 0 = none ∧ decodeTableWord 8 7 = none := by decide

/-! ## Vectors of 95_test_vectors.md and the examples of the rules, one step each -/

/-- R204's example from reset, and what READ_REG of CONFIG then reads (46_commands.md R222: 0x2200). -/
theorem test_configure_example :
    goesOn (exec (.configure 0 .one .two 0 [0xAA#8, 0x55#8]) State.reset) (fun t =>
      decide (t.regValue .config = 0x2200#16 ∧ t.regValue .marker01 = 0x55AA#16 ∧ t.regValue .status = 0x0001#16)) = true := by
  decide +kernel
/-- R204: channel id 9 is the last legal one, 10 is BAD_CONFIG. -/
theorem test_configure_channel_limit :
    goesOn (exec (.configure 9 .one .one 0 [0xAA#8]) State.reset) (fun t => decide (t.outputs = [.response (.code .ok)])) = true ∧
    goesOn (exec (.configure 10 .one .one 0 [0xAA#8]) State.reset)
      (fun t => decide (t = State.reset.respond .badConfig)) = true := by decide +kernel
/-- R129: marker AA 55, burst AA AA 55 locks. -/
theorem test_receive_lookback :
    goesOn (exec (.receive [0xAA#8, 0xAA#8, 0x55#8]) (hunting .one .one)) (fun t => decide (t.statusWord = 0x0003#16)) = true := by
  decide +kernel
/-- D1: the body of the W2 frame. -/
theorem test_receive_w2_body :
    goesOn (exec (.receive [0x04#8, 0x01#8, 0x20#8, 0xA0#8, 0x10#8, 0x20#8, 0x30#8, 0x40#8])
        (inPhase .one .two .lenB0 0 0 0 0 []))
      (fun t => decide (packetRecords t.outputs = [⟨3, 0x1001, [0x10, 0x20, 0x30, 0x40]⟩] ∧ t.statusWord = 0x0001#16)) = true := by
  decide +kernel
/-- W2: the wire bytes of the source's scenario (44_encoder.md R176). -/
theorem test_send_w2 :
    goesOn (exec (.send 0x1001 [0x10, 0x20, 0x30, 0x40]) (hunting .one .two)) (fun t => decide
      (txStream t.outputs = [0xAA, 0x55, 0x04, 0x01, 0x20, 0xA0, 0x10, 0x20, 0x30, 0x40] ∧
        responseStream t.outputs = [0x00])) = true := by decide +kernel
/-- E5: 32 bytes FF, a two-byte checksum, low byte first. -/
theorem test_send_wide_checksum :
    goesOn (exec (.send 1 (List.replicate 32 0xFF)) (hunting .one .one)) (fun t => decide
      (txStream t.outputs = [0xAA, 0x55, 0x20, 0x01, 0xE0, 0x1F] ++ List.replicate 32 0xFF)) = true := by decide +kernel
/-- R213's example: from PAYLOAD to HUNTING, LEN_B0. -/
theorem test_resync_example :
    goesOn (exec .resync beforeLast) (fun t => decide (t.statusWord = 0x0001#16 ∧ t.frame = Frame.reset)) = true := by
  decide +kernel
/-- R222, low byte first: RING_CAP of this hardware is 2048; 0x0D is BAD_REGISTER. -/
theorem test_readReg_bytes :
    goesOn (exec (.readReg 0x0B) State.reset) (fun t => decide (responseStream t.outputs = [0x00, 0x00, 0x08])) = true ∧
    goesOn (exec (.readReg 0x0D) State.reset) (fun t => decide (responseStream t.outputs = [0x06])) = true := by decide +kernel
/-- R224's example: STATUS 0x0021 becomes 0x0001. -/
theorem test_clearStatus_example :
    (hunting .one .one).setOvf.statusWord = 0x0021#16 ∧
      goesOn (exec .clearStatus (hunting .one .one).setOvf) (fun t => decide (t.statusWord = 0x0001#16)) = true := by
  decide +kernel
/-- R226: `.byte 07`. -/
theorem test_illegal :
    goesOn (step { hunting .one .one with cmdIn := [0x07] }) (fun t => decide (responseStream t.outputs = [0x05] ∧ t.cmdIn = [])) =
      true := by decide +kernel
/-- G3: 2048 bytes overflow the ring of this hardware, and the answer is OK. -/
theorem test_overflow_at_2048 :
    goesOn (exec (.receive (List.replicate 2048 0x00)) { State.reset with cfg := configOf 0 .one .one [0xAA, 0x55] })
      (fun t => decide (t.statusWord = 0x0021#16 ∧ responseStream t.outputs = [0x00])) = true := by decide +kernel
/-- 2.3 and 2.4 of 95_test_vectors.md. -/
theorem test_varint_vectors :
    [127#16, 128#16, 200#16, 4097#16, 16384#16, 32767#16, 32768#16].map varintEncode =
      [some [0x7F], some [0x00, 0x01], some [0x48, 0x01], some [0x01, 0x20], some [0x00, 0x80], some [0x7F, 0xFF], none] ∧
    varintDecodeTwo 0x05 0x00 = none ∧ varintDecodeTwo 0x85 0x01 = none ∧ varintDecodeOne 0x80 = none := by decide +kernel
theorem test_checksum_vectors :
    checksum16 (List.replicate 31 0xFF) = 0x1EE1#16 ∧ checksum16 (List.replicate 258 0xFF) = 0x00FE#16 ∧
      csMatch 4 0x0200 0x00 = true ∧ csMatch 32 0x1FE0 0x2FE0 = false := by decide +kernel
/-- 30_encoding.md R96's example and R97. -/
theorem test_assemble :
    assemble (.configure 0 .one .two [.byte 0xAA, .byte 0x55]) = [0x01, 0x00, 0x22, 0xAA, 0x55] ∧
      assemble (.receiveEach [.fill 2 0xAA]) = [0x02, 0x01, 0x00, 0xAA, 0x02, 0x01, 0x00, 0xAA] := by decide +kernel
/-- The encoder writes what the decoder test above reads. -/
theorem test_encode_send :
    encode (.send 0x1001 [0x10, 0x20, 0x30, 0x40]) = [0x03, 0x01, 0x10, 0x04, 0x00, 0x10, 0x20, 0x30, 0x40] := by decide
theorem test_reset_memory_canonical : Memory.wf State.reset.ring.store ∧ Memory.wf State.reset.pbuf := by decide

/-! ## Witnesses: for every statement with hypotheses, a concrete case that meets them all together -/

theorem witness_DecodeOfEncodeGivesCommandBack :
    (Instr.configure 255 .two .one 3 (List.replicate 15 0xAA#8)).wf = true ∧
      (Instr.receive (List.replicate 65535 0x00#8)).wf = true ∧ (Instr.send 0xFFFF (List.replicate 65535 0x00#8)).wf = true := by
  refine ⟨by decide, ?_, ?_⟩ <;> (rw [Instr.wf, List.length_replicate]; decide)

theorem witness_EncodeOfDecodeGivesBytesBack :
    decode [0x01#8, 0xFF#8, 0xF1#8, 0xAA#8, 0x06#8] = .command (.configure 0xFF .two .two 3 [0xAA#8]) [0x06#8] := by decide

theorem witness_FormatsGiveOperands :
    (List.replicate 15 0xAA#8).length = (0xFF#8).toNat % 16 ∧ ([] : List Byte).length = (0xF0#8).toNat % 16 ∧
      (List.replicate 256 0xAA#8).length = (0x00#8).toNat + 256 * (0x01#8).toNat ∧
      (List.replicate 65535 0xAA#8).length = (0xFF#8).toNat + 256 * (0xFF#8).toNat := by
  refine ⟨by decide, by decide, ?_, ?_⟩ <;> (rw [List.length_replicate]; decide)

theorem witness_DecoderConsumesTheCommandLength :
    ((0x00#8 ≠ 0x01#8 ∧ 0x00#8 ≠ 0x02#8 ∧ 0x00#8 ≠ 0x03#8 ∧ 0x00#8 ≠ 0x05#8)) ∧
      (0xFF#8 ≠ 0x01#8 ∧ 0xFF#8 ≠ 0x02#8 ∧ 0xFF#8 ≠ 0x03#8 ∧ 0xFF#8 ≠ 0x05#8) ∧
      decode [0x06#8, 0x07#8] = .command .clearStatus [0x07#8] ∧ decode [0x07#8] = .illegal 0x07#8 [] ∧
      decode [0x02#8, 0x01#8, 0x00#8] = .incomplete := by decide

theorem witness_IllegalOpcodeAnswersIllegalCommand :
    { hunting .one .one with cmdIn := [0x00#8, 0x06#8] }.resetLine = false ∧
      { hunting .one .one with cmdIn := [0x00#8, 0x06#8] }.cmdIn = 0x00#8 :: [0x06#8] ∧
      ((0x00#8).toNat = 0 ∨ 7 ≤ (0x00#8).toNat) ∧ ((0x07#8).toNat = 0 ∨ 7 ≤ (0x07#8).toNat) ∧
      ((0xFF#8).toNat = 0 ∨ 7 ≤ (0xFF#8).toNat) := ⟨rfl, rfl, by decide, by decide, by decide⟩

theorem witness_StepRunsDecodedCommand :
    { hunting .one .one with cmdIn := [0x05#8, 0x0C#8, 0x06#8] }.resetLine = false ∧
      decode { hunting .one .one with cmdIn := [0x05#8, 0x0C#8, 0x06#8] }.cmdIn = .command (.readReg 0x0C) [0x06#8] :=
  ⟨rfl, by decide⟩

theorem witness_PartialCommandIsHeld :
    (Instr.receive [0xAA#8]).wf = true ∧ { hunting .one .one with cmdIn := [0x02#8, 0x01#8, 0x00#8] }.resetLine = false ∧
      [0xAA#8] ≠ [] ∧ encode (.receive [0xAA#8]) = [0x02#8, 0x01#8, 0x00#8] ++ [0xAA#8] ∧
      (Instr.clearStatus).wf = true ∧ [0x06#8] ≠ [] ∧ encode .clearStatus = (hunting .one .one).cmdIn ++ [0x06#8] :=
  ⟨rfl, rfl, by decide, by decide, rfl, by decide, by decide⟩

theorem witness_StreamRunsItsCommandsInOrder :
    (∀ i ∈ [Instr.readReg 0x0A, .clearStatus], i.wf = true) ∧ (hunting .one .one).resetLine = false ∧
      ∃ t, runCommands [.readReg 0x0A, .clearStatus] { hunting .one .one with cmdIn := [0x07#8] } = .next t :=
  ⟨by decide, rfl, _, rfl⟩

theorem witness_ResetValues : RegName.status ≠ .ringCap ∧ RegName.status ≠ .payloadMax := by decide

theorem witness_AssertedResetIsTakenNext : beforeLast.assertReset.resetLine = true := rfl

/-- One case for each clause: configured; a refusal for each of the four grounds, at its boundary; the last legal operands. -/
theorem witness_ConfigureWritesOrRefuses :
    (hunting .one .one).cfg.valid = true ∧ State.reset.cfg.valid = false ∧
      State.reset.params.numChannels ≤ (10#8).toNat ∧ ([] : List Byte).length = 0 ∧ 8 < (List.replicate 9 0xAA#8).length ∧
      (1#2 ≠ 0) ∧
      ¬ (State.reset.params.numChannels ≤ (9#8).toNat ∨ (List.replicate 8 0xAA#8).length = 0 ∨
        8 < (List.replicate 8 0xAA#8).length ∨ (0#2 ≠ 0)) := by decide +kernel

/-- Both ranges at their boundary, each way. -/
theorem witness_SendEmitsTheWireFrame :
    State.reset.cfg.valid = false ∧ (hunting .one .one).cfg.valid = true ∧ 32767 < (List.replicate 32768 0x00#8).length ∧ 32767 < (0x8000#16).toNat ∧
      (List.replicate 32767 0x00#8).length ≤ 32767 ∧ (0x7FFF#16).toNat ≤ 32767 := by
  refine ⟨rfl, rfl, ?_, by decide, ?_, by decide⟩ <;> simp only [List.length_replicate] <;> decide

theorem witness_ResyncResetsTheChannel : State.reset.cfg.valid = false ∧ beforeLast.cfg.valid = true := ⟨rfl, rfl⟩

theorem witness_ReadRegAnswersTheRegister :
    ((0x0C#8).toNat, BitVec.ofNat 16 beforeLast.params.maxPayload) ∈
      [(0x00, beforeLast.statusWord), (0x0C, BitVec.ofNat 16 beforeLast.params.maxPayload)] ∧
      ((0x00#8).toNat = 0x00) ∧ 0x0C < (0x0D#8).toNat ∧ 0x0C < (0xFF#8).toNat := by decide +kernel

theorem witness_UnconfiguredEngineRefuses :
    State.reset.cfg.valid = false ∧ (∃ type p, Instr.send 1 [] = .send type p) ∧ (Instr.send 1 []).wf = true ∧
      State.reset.resetLine = false ∧ ∃ chan lf tf rsv mk, Instr.configure 0 .one .one 0 [] = .configure chan lf tf rsv mk :=
  ⟨rfl, ⟨1, [], rfl⟩, rfl, rfl, 0, .one, .one, 0, [], rfl⟩

/-- C bytes, and C − 1. -/
theorem witness_BurstOverflowsExactlyAtCapacity :
    beforeLast.Inv ∧ beforeLast.cfg.valid = true ∧ beforeLast.params.ringCapacity ≤ (List.replicate 16 0xAA#8).length ∧
      (List.replicate 15 0xAA#8).length < beforeLast.params.ringCapacity := ⟨inv_beforeLast, rfl, by decide, by decide⟩

theorem witness_ReceiveProcessesItsBytesInOrder :
    (hunting .one .one).Inv ∧ (hunting .one .one).cfg.valid = true ∧
      (List.replicate 15 0xAA#8).length < (hunting .one .one).params.ringCapacity := ⟨inv_hunting _ _, rfl, by decide⟩

theorem witness_ReceiveCompletesWithAtMostOnePacket :
    beforeLast.Inv ∧ beforeLast.cfg.valid = true ∧ ([] : List Byte) = [] := ⟨inv_beforeLast, rfl, rfl⟩

theorem witness_ReceiveFrameOnTheStores :
    beforeLast.Inv ∧ beforeLast.cfg.valid = true ∧ (∃ t, exec (.receive (List.replicate 15 0xAA#8)) beforeLast = .next t) ∧
      (∃ t, exec (.receive (List.replicate 16 0xAA#8)) beforeLast = .next t) ∧
      (List.replicate 15 0xAA#8).length < beforeLast.params.ringCapacity ∧
      beforeLast.params.ringCapacity ≤ (List.replicate 16 0xAA#8).length ∧ (2 < beforeLast.frame.rxCount.toNat) :=
  ⟨inv_beforeLast, rfl, ⟨_, rfl⟩, ⟨_, rfl⟩, by decide, by decide, by decide⟩

theorem witness_OtherCommandsFrame :
    (∀ data : List Byte, Instr.resync ≠ .receive data) ∧ (∃ t, exec .resync beforeLast = .next t) ∧
      (∀ data : List Byte, Instr.clearStatus ≠ .receive data) ∧ (∃ t, exec .clearStatus beforeLast = .next t) ∧
      (∀ chan lf tf rsv mk, Instr.clearStatus ≠ .configure chan lf tf rsv mk) :=
  ⟨by simp, ⟨_, rfl⟩, by simp, ⟨_, rfl⟩, by simp⟩

theorem witness_OneResponseLast : ∃ t, exec (.receive [0x40#8]) beforeLast = .next t ∧ packetRecords t.outputs ≠ [] :=
  ⟨_, rfl, by decide +kernel⟩

theorem witness_FailedCommandChangesNothing :
    ∃ t, exec (.send 0x8000 []) beforeLast = .next t ∧ t.outputs = beforeLast.outputs ++ [] ++ [.response (.code .rangeError)] ∧
      ResponseCode.rangeError ≠ .ok := ⟨_, rfl, rfl, by decide⟩

theorem witness_DeliveredPacketsFitTheForms :
    beforeLast.Inv ∧ beforeLast.cfg.valid = true ∧ ∃ t, runCommands ([[0x40#8]].map .receive) beforeLast = .next t ∧
      { chan := 3, type := 0x1001, payload := [0x10, 0x20, 0x30, 0x40] } ∈
        (packetRecords t.outputs).drop (packetRecords beforeLast.outputs).length :=
  ⟨inv_beforeLast, rfl, _, rfl, by decide +kernel⟩

theorem witness_ResponsePortBytes :
    (∃ t, execIllegal 0x07 beforeLast = .next t) ∧ (∃ t, exec (.readReg 0x0C) beforeLast = .next t) ∧
      ∃ t, exec (.readReg 0x0D) beforeLast = .next t := ⟨⟨_, rfl⟩, ⟨_, rfl⟩, _, rfl⟩

theorem witness_PacketRecordBytes :
    ({ chan := 3, type := 0x1001, payload := List.replicate 32767 0xFF } : Packet).payload.length ≤ 32767 := by
  show (List.replicate 32767 _).length ≤ 32767
  rw [List.length_replicate]

theorem witness_VarintEncodeBytes :
    (127#16).toNat < 128 ∧ (128 ≤ (128#16).toNat ∧ (128#16).toNat < 32768) ∧ (128 ≤ (32767#16).toNat ∧ (32767#16).toNat < 32768) ∧
      32768 ≤ (32768#16).toNat := by decide

theorem witness_VarintDecodersInvertTheEncoder :
    (127#16).toNat ≤ 127 ∧ (128 ≤ (128#16).toNat ∧ (128#16).toNat ≤ 32767) ∧ 128 ≤ (32767#16).toNat ∧ (32767#16).toNat ≤ 32767 := by
  decide

theorem witness_ChecksumIsTheSumModulo : [0x10#8, 0x20#8, 0x30#8, 0x40#8].Perm [0x40#8, 0x30#8, 0x20#8, 0x10#8] := by decide

theorem witness_ChecksumFieldMatchesExactly : (0 = 0) ∧ (1 ≤ 1 ∧ 1 ≤ 31) ∧ (1 ≤ 31 ∧ 31 ≤ 31) ∧ 32 ≤ 32 := by decide

/-- One changed byte; 80 80 for 00 00 in the one-byte form; +1 and −1 in the two-byte form. -/
theorem witness_ChecksumDetectsAndMisses :
    (∃ h : 2 < [0xFF#8, 0x00#8, 0x80#8].length, [0xFF#8, 0x00#8, 0x80#8][2]'h ≠ 0x81#8) ∧
      ([0x80#8, 0x80#8].map fun b => b.toNat).sum % 256 = ([0x00#8, 0x00#8].map fun b => b.toNat).sum % 256 ∧
      32 ≤ ([0x01#8, 0x00#8] ++ List.replicate 30 0xFF#8).length ∧
      (([0x01#8, 0x00#8] ++ List.replicate 30 0xFF#8).map fun b => b.toNat).sum % 65536 =
        (([0x00#8, 0x01#8] ++ List.replicate 30 0xFF#8).map fun b => b.toNat).sum % 65536 :=
  ⟨⟨by decide, by decide⟩, by decide, by decide, by decide⟩

theorem witness_FrameLengthByTable :
    (hunting .one .one).cfg.n.toNat ≤ 8 ∧ (∃ frame, encodeFrame (hunting .one .one).cfg 0x1001 [] = some frame) ∧
      ∃ frame, encodeFrame (hunting .one .one).cfg 127 (List.replicate 32 0xFF) = some frame :=
  ⟨by decide, ⟨_, rfl⟩, _, rfl⟩

/-- M = 1 of 2: the byte 55 completes the marker, AA is the lookback, and 00 drops the match. -/
theorem witness_HuntingByteMovesTheMatchCount :
    let s : State := { hunting .one .one with sync := { mode := .hunting, m := 1 } }
    s.sync.m.toNat < 8 ∧ s.Inv ∧ s.cfg.valid = true ∧ s.sync.mode = .hunting ∧
      s.cfg.marker[1] = 0x55#8 ∧ 1 + 1 = s.cfg.n.toNat ∧ 1 ≠ s.cfg.n.toNat :=
  ⟨by decide, inv_of_hunting (by decide +kernel) rfl, rfl, rfl, by decide, by decide, by decide⟩

theorem unbordered_AA55 (lf tf : Form) : MarkerUnbordered (hunting lf tf).cfg.markerBytes := by
  intro k j h1 h2
  have : (hunting lf tf).cfg.markerBytes.length = 2 := rfl
  omega

/-- A marker of three bytes, where the condition says something: 12 34 56. -/
theorem unbordered_123456 : MarkerUnbordered (configOf 0 .one .one [0x12, 0x34, 0x56]).markerBytes := by
  intro k j h1 h2 h3 h4
  have : (configOf 0 .one .one [0x12, 0x34, 0x56]).markerBytes.length = 3 := rfl
  obtain rfl : k = 2 := by omega
  obtain rfl : j = 1 := by omega
  decide

/-- A match split over two bursts, and one where the last burst has none. -/
theorem witness_UnborderedMarkerIsFoundExactly :
    let s : State := { State.initial small with cfg := configOf 0 .one .one [0x12, 0x34, 0x56] }
    s.Inv ∧ s.cfg.valid = true ∧ s.sync.mode = .hunting ∧ s.sync.m = 0 ∧ MarkerUnbordered s.cfg.markerBytes ∧
      (∀ w ∈ [[0x12#8, 0x12#8], [0x34#8]] ++ [[0x56#8]], w.length < s.params.ringCapacity) ∧
      ¬ s.cfg.markerBytes <:+: [[0x12#8, 0x12#8], [0x34#8]].flatten ∧
      s.cfg.markerBytes <:+: [[0x12#8, 0x12#8], [0x34#8]].flatten ++ [0x56#8] ∧
      ¬ s.cfg.markerBytes <:+: [[0x12#8, 0x12#8], [0x34#8]].flatten ++ [0x55#8] :=
  ⟨inv_of_hunting (by decide +kernel) rfl, rfl, rfl, rfl, unbordered_123456, by decide, by decide, by decide, by decide⟩

theorem witness_NoLockWithoutTheMarker :
    (hunting .one .one).Inv ∧ (hunting .one .one).cfg.valid = true ∧ (hunting .one .one).sync.mode = .hunting ∧
      (hunting .one .one).sync.m = 0 ∧ (∀ w ∈ [[0xAA#8], [0xAA#8, 0x00#8, 0x55#8]], w.length < (hunting .one .one).params.ringCapacity) ∧
      ¬ (hunting .one .one).cfg.markerBytes <:+: [[0xAA#8], [0xAA#8, 0x00#8, 0x55#8]].flatten :=
  ⟨inv_hunting _ _, rfl, rfl, rfl, by decide, by decide⟩

theorem witness_EveryBorderedMarkerIsMissedSomewhere :
    1 ≤ [0xAA#8, 0xAA#8, 0x55#8].length ∧ [0xAA#8, 0xAA#8, 0x55#8].length ≤ 8 ∧ ¬ MarkerUnbordered [0xAA#8, 0xAA#8, 0x55#8] :=
  ⟨by decide, by decide, fun h => h 2 1 (by decide) (by decide) (by decide) (by decide) (by decide)⟩

theorem witness_BytesBehindTheMarkerAreLost :
    (hunting .one .one).Inv ∧ (hunting .one .one).cfg.valid = true ∧ (hunting .one .one).sync.mode = .hunting ∧
      (hunting .one .one).sync.m = 0 ∧
      (hunting .one .one).cfg.n.toNat + (List.replicate 13 0xAA#8).length < (hunting .one .one).params.ringCapacity :=
  ⟨inv_hunting _ _, rfl, rfl, rfl, by decide⟩

/-- LEN_B0 in form ONE (40 is the longest payload here, 41 and 80 are errors), in form TWO, and LEN_B1. -/
theorem witness_LengthByteStep :
    let one := inPhase .one .one .lenB0 0 0 0 0 []
    let two := inPhase .two .one .lenB0 0 0 0 0 []
    let second := inPhase .two .one .lenB1 5 0 0 0 []
    (one.Inv ∧ one.cfg.valid = true ∧ one.sync.mode = .inFrame ∧ one.frame.phase = .lenB0 ∧ 128 ≤ (0x80#8).toNat ∧
      ¬ one.params.maxPayload < (40#8).toNat ∧ one.params.maxPayload < (41#8).toNat) ∧
    (two.Inv ∧ two.sync.mode = .inFrame ∧ two.frame.phase = .lenB0 ∧ two.cfg.lenForm = .two) ∧
    (second.Inv ∧ second.sync.mode = .inFrame ∧ second.frame.phase = .lenB1 ∧
      second.params.maxPayload < second.frame.rxLen.toNat + 128 * (1#8).toNat) :=
  ⟨⟨inv_lenB0 _ _, rfl, rfl, rfl, by decide, by decide, by decide⟩, ⟨inv_lenB0 _ _, rfl, rfl, rfl⟩, inv_lenB1, rfl, rfl, by decide⟩

/-- The engine of this hardware takes a second length byte. -/
theorem witness_LengthByteStep_accepted :
    let s : State := { inPhase .two .one .lenB1 5 0 0 0 [] with params := Params.thisHardware }
    s.Inv ∧ s.cfg.valid = true ∧ s.sync.mode = .inFrame ∧ s.frame.phase = .lenB1 ∧ (0xFF#8 ≠ 0) ∧
      ¬ s.params.maxPayload < s.frame.rxLen.toNat + 128 * (0xFF#8).toNat :=
  ⟨inv_of_inFrame (by decide +kernel) (by simp [State.FrameShape, inPhase, hunting, configOf, Phase.code])
    (by simp [State.FieldsAsReceived, inPhase, Phase.code]), rfl, rfl, rfl, by decide, by decide⟩

/-- An error, a delivery of an empty payload, and a type that goes on to the checksum or to a second byte. -/
theorem witness_TypeByteStep :
    let empty := inPhase .one .one .typeB0 0 0 0 0 []
    let more := inPhase .one .two .typeB0 4 0 0 0 []
    let second := inPhase .one .two .typeB1 4 1 0 0 []
    let secondEmpty := inPhase .one .two .typeB1 0 1 0 0 []
    (empty.Inv ∧ empty.cfg.valid = true ∧ empty.sync.mode = .inFrame ∧ empty.frame.phase = .typeB0 ∧ empty.frame.rxLen = 0 ∧
      empty.cfg.typeForm ≠ .two ∧ 128 ≤ (0x80#8).toNat ∧ ¬ 128 ≤ (0x7F#8).toNat) ∧
    (more.Inv ∧ more.sync.mode = .inFrame ∧ more.frame.phase = .typeB0 ∧ more.cfg.typeForm = .two ∧ more.frame.rxLen ≠ 0) ∧
    (second.Inv ∧ second.sync.mode = .inFrame ∧ second.frame.phase = .typeB1 ∧ second.frame.rxLen ≠ 0) ∧
    (secondEmpty.Inv ∧ secondEmpty.sync.mode = .inFrame ∧ secondEmpty.frame.phase = .typeB1 ∧ secondEmpty.frame.rxLen = 0) :=
  ⟨⟨inv_typeB0 _ _ (.inl rfl), rfl, rfl, rfl, rfl, by decide, by decide, by decide⟩,
    ⟨inv_typeB0 _ _ (.inr rfl), rfl, rfl, rfl, by decide⟩, ⟨inv_typeB1 _ (.inr rfl), rfl, rfl, by decide⟩,
    inv_typeB1 _ (.inl rfl), rfl, rfl, rfl⟩

/-- L = 31 takes one checksum byte, L = 32 two. -/
theorem witness_ChecksumByteStep :
    let narrow := inPhase .one .two .csB0 31 0x1001 0 0 []
    let wide := inPhase .one .two .csB0 32 0x1001 0 0 []
    let second := inPhase .one .two .csB1 32 0x1001 0xE0 0 []
    (narrow.Inv ∧ narrow.cfg.valid = true ∧ narrow.sync.mode = .inFrame ∧ narrow.frame.phase = .csB0 ∧
      ¬ 32 ≤ narrow.frame.rxLen.toNat) ∧
    (wide.Inv ∧ wide.sync.mode = .inFrame ∧ wide.frame.phase = .csB0 ∧ 32 ≤ wide.frame.rxLen.toNat) ∧
    (second.Inv ∧ second.sync.mode = .inFrame ∧ second.frame.phase = .csB1) :=
  ⟨⟨inv_csB0 _ (.inl rfl), rfl, rfl, rfl, by decide⟩, ⟨inv_csB0 _ (.inr rfl), rfl, rfl, by decide⟩, inv_csB1, rfl, rfl⟩

/-- The last byte of W2, right (40) and wrong (41). -/
theorem witness_PayloadByteStep :
    beforeLast.Inv ∧ beforeLast.cfg.valid = true ∧ beforeLast.sync.mode = .inFrame ∧ beforeLast.frame.phase = .payload ∧
      [0x10#8, 0x20#8, 0x30#8].length = beforeLast.frame.rxCount.toNat ∧
      (∀ (i : Nat) (h : i < [0x10#8, 0x20#8, 0x30#8].length), beforeLast.pbufByte i = some ([0x10#8, 0x20#8, 0x30#8][i]'h)) ∧
      beforeLast.frame.rxCount.toNat + 1 = beforeLast.frame.rxLen.toNat ∧
      wireSum ([0x10#8, 0x20#8, 0x30#8] ++ [0x40#8]) % 256 = beforeLast.frame.rxCsx.toNat ∧
      wireSum ([0x10#8, 0x20#8, 0x30#8] ++ [0x41#8]) % 256 ≠ beforeLast.frame.rxCsx.toNat :=
  ⟨inv_beforeLast, rfl, rfl, rfl, by decide, by decide, by decide, by decide, by decide⟩

/-- A payload byte that is not the last. -/
theorem witness_PayloadByteStep_notLast :
    let s := inPhase .one .two .payload 4 0x1001 0xA0 0 []
    s.Inv ∧ s.cfg.valid = true ∧ s.sync.mode = .inFrame ∧ s.frame.phase = .payload ∧ ([] : List Byte).length = s.frame.rxCount.toNat ∧
      (∀ (i : Nat) (h : i < ([] : List Byte).length), s.pbufByte i = some (([] : List Byte)[i]'h)) ∧
      s.frame.rxCount.toNat + 1 ≠ s.frame.rxLen.toNat :=
  ⟨inv_of_inFrame (by decide +kernel)
      (by simp [State.FrameShape, inPhase, hunting, configOf, State.initial, small, Phase.code, fitsForm])
      (by simp [State.FieldsAsReceived, inPhase, hunting, configOf, Phase.code, fitsForm]),
    rfl, rfl, rfl, rfl, by simp, by decide⟩

/-- W2's frame in three bursts, and all of it but the last byte. -/
theorem witness_EncodedFrameIsReceivedBack :
    let s := hunting .one .two
    let p : List Byte := [0x10, 0x20, 0x30, 0x40]
    let frame : List Byte := [0xAA, 0x55, 0x04, 0x01, 0x20, 0xA0, 0x10, 0x20, 0x30, 0x40]
    s.Inv ∧ s.cfg.valid = true ∧ s.sync.mode = .hunting ∧ s.sync.m = 0 ∧ p.length ≤ s.params.maxPayload ∧
      (0x1001#16).toNat ≤ 32767 ∧ s.cfg.lenForm = formOfValue p.length ∧ s.cfg.typeForm = formOfValue (0x1001#16).toNat ∧
      [[0xAA#8, 0x55#8]].flatten = s.cfg.markerBytes ∧ encodeFrame s.cfg 0x1001 p = some frame ∧
      ([[0xAA#8, 0x55#8]] ++ [[0x04#8, 0x01#8], [0x20#8, 0xA0#8, 0x10#8, 0x20#8, 0x30#8, 0x40#8]]).flatten = frame ∧
      ([[0xAA#8, 0x55#8]] ++ [[0x04#8, 0x01#8], [0x20#8, 0xA0#8, 0x10#8, 0x20#8, 0x30#8]]).flatten = frame.dropLast ∧
      ∀ w ∈ [[0xAA#8, 0x55#8]] ++ [[0x04#8, 0x01#8], [0x20#8, 0xA0#8, 0x10#8, 0x20#8, 0x30#8, 0x40#8]],
        w.length ≤ s.params.ringCapacity - 1 :=
  ⟨inv_hunting _ _, rfl, rfl, rfl, by decide, by decide, rfl, rfl, rfl, rfl, rfl, rfl, by decide⟩

theorem witness_DecoderAcceptsExactlyEncodedFrames :
    (inPhase .one .two .lenB0 0 0 0 0 []).Inv ∧ (inPhase .one .two .lenB0 0 0 0 0 []).cfg.valid = true ∧
      (inPhase .one .two .lenB0 0 0 0 0 []).sync.mode = .inFrame ∧ (inPhase .one .two .lenB0 0 0 0 0 []).frame.phase = .lenB0 ∧
      [0x04#8, 0x01#8, 0x20#8, 0xA0#8, 0x10#8, 0x20#8, 0x30#8, 0x40#8, 0xAA#8].length <
        (inPhase .one .two .lenB0 0 0 0 0 []).params.ringCapacity ∧
      wireBody (0x1001#16).toNat [0x10#8, 0x20#8, 0x30#8, 0x40#8] <+:
        [0x04#8, 0x01#8, 0x20#8, 0xA0#8, 0x10#8, 0x20#8, 0x30#8, 0x40#8, 0xAA#8] :=
  ⟨inv_lenB0 _ _, rfl, rfl, rfl, by decide, by decide⟩

/-- Noise 00 AA before W2's frame, which the lookback gets over, and 22 55 behind it. -/
theorem witness_ExactlyOneFrameInNoise :
    let s := hunting .one .two
    let p : List Byte := [0x10, 0x20, 0x30, 0x40]
    s.Inv ∧ s.cfg.valid = true ∧ s.sync.mode = .hunting ∧ s.sync.m = 0 ∧ p.length ≤ s.params.maxPayload ∧
      (0x1001#16).toNat ≤ 32767 ∧ s.cfg.lenForm = formOfValue p.length ∧ s.cfg.typeForm = formOfValue (0x1001#16).toNat ∧
      MarkerUnbordered s.cfg.markerBytes ∧
      (∀ k : Nat, k < [0x00#8, 0xAA#8].length →
        ¬ s.cfg.markerBytes <+: ([0x00#8, 0xAA#8] ++ wireFrame s.cfg.markerBytes (0x1001#16).toNat p).drop k) ∧
      ¬ s.cfg.markerBytes <:+: [0x22#8, 0x55#8] ∧
      [[0x00#8], [0xAA#8, 0xAA#8, 0x55#8]].flatten = [0x00#8, 0xAA#8] ++ s.cfg.markerBytes ∧
      [[0x04#8, 0x01#8, 0x20#8, 0xA0#8], [0x10#8, 0x20#8, 0x30#8, 0x40#8, 0x22#8, 0x55#8]].flatten =
        wireBody (0x1001#16).toNat p ++ [0x22#8, 0x55#8] ∧
      ∀ w ∈ [[0x00#8], [0xAA#8, 0xAA#8, 0x55#8]] ++
          [[0x04#8, 0x01#8, 0x20#8, 0xA0#8], [0x10#8, 0x20#8, 0x30#8, 0x40#8, 0x22#8, 0x55#8]],
        w.length ≤ s.params.ringCapacity - 1 :=
  ⟨inv_hunting _ _, rfl, rfl, rfl, by decide, by decide, rfl, rfl, unbordered_AA55 _ _, by decide, by decide, by decide,
    by decide, by decide⟩

/-- A cut in the hunt, and a cut inside a frame. -/
theorem witness_CuttingABurstChangesNothing :
    ((hunting .one .one).Inv ∧ (hunting .one .one).cfg.valid = true ∧
      [0x00#8, 0xAA#8].length + [0x55#8].length < (hunting .one .one).params.ringCapacity ∧
      ∃ ta t2, exec (.receive [0x00#8, 0xAA#8]) (hunting .one .one) = .next ta ∧ (ta.sync.mode = .hunting) ∧
        exec (.receive [0x55#8]) ta = .next t2) ∧
    (beforeLast.Inv ∧ beforeLast.cfg.valid = true ∧
      ([] : List Byte).length + [0x40#8, 0xAA#8].length < beforeLast.params.ringCapacity ∧
      ∃ ta t2, exec (.receive []) beforeLast = .next ta ∧ ta.frame.phase ≠ .lenB0 ∧
        exec (.receive [0x40#8, 0xAA#8]) ta = .next t2) :=
  ⟨⟨inv_hunting _ _, rfl, by decide, _, _, rfl, rfl, rfl⟩, inv_beforeLast, rfl, by decide, _, _, rfl, by decide +kernel, rfl⟩

theorem witness_EveryFrameEnds :
    beforeLast.Inv ∧ beforeLast.cfg.valid = true ∧ beforeLast.sync.mode = .inFrame ∧
      (List.replicate 46 0xAA#8).length = 6 + beforeLast.params.maxPayload := ⟨inv_beforeLast, rfl, rfl, by decide⟩

/-- The least and the largest parameters of 00_scope.md R9. -/
theorem witness_InvariantHoldsAtReset :
    Params.legal { ringCapacity := 2, numChannels := 1, maxPayload := 0 } ∧
      Params.legal { ringCapacity := 32768, numChannels := 256, maxPayload := 32767 } := by decide

theorem witness_StepKeepsTheInvariant :
    beforeLast.Inv ∧ (∃ t, step beforeLast = .next t) ∧
      { beforeLast with cmdIn := [0x02#8, 0x01#8, 0x00#8, 0x40#8] }.Inv ∧
      ∃ t, step { beforeLast with cmdIn := [0x02#8, 0x01#8, 0x00#8, 0x40#8] } = .next t ∧ packetRecords t.outputs ≠ [] := by
  have h := inv_beforeLast
  exact ⟨h, ⟨_, rfl⟩, ⟨h.1, h.2, h.3, h.4, h.5, h.6, h.7, h.8, h.9, h.10, h.11, h.12, h.13, h.14, h.15⟩, _, rfl, by decide +kernel⟩

theorem witness_StepAlwaysAnswers : beforeLast.Inv := inv_beforeLast

theorem witness_ReachableStatesMeetTheRules :
    Reachable ((State.initial small).issue [0x01#8, 0x00#8, 0x22#8, 0xAA#8, 0x55#8]) ∧
      ∃ t, Reachable t ∧ t.cfg.valid = true :=
  have h := Reachable.issue (.initial small (by decide)) [0x01#8, 0x00#8, 0x22#8, 0xAA#8, 0x55#8]
  ⟨h, _, .step h rfl, rfl⟩

theorem witness_ConfigurationIsImmutable :
    (beforeLast.cfg.valid = true ∧ ∃ t, exec .resync beforeLast = .next t) ∧
    (beforeLast.resetLine = false ∧ ∃ t, step beforeLast = .next t) ∧
    beforeLast.assertReset.cfg.valid = true ∧ ∃ t, step beforeLast.assertReset = .next t ∧ t.cfg ≠ beforeLast.assertReset.cfg :=
  ⟨⟨rfl, _, rfl⟩, ⟨rfl, _, rfl⟩, rfl, _, rfl, by decide +kernel⟩

theorem witness_FlagsAreStickyAndUnread :
    (∃ t, exec (.receive [0x41#8]) beforeLast.setOvf = .next t ∧ beforeLast.setOvf.flags.ovf = true) ∧
      (∀ data, Instr.clearStatus ≠ .receive data) ∧ (∃ t, exec .clearStatus beforeLast.setHerr = .next t) ∧
      Instr.receive [0x41#8] ≠ .readReg 0 := ⟨⟨_, rfl, rfl⟩, by simp, ⟨_, rfl⟩, by decide⟩

theorem witness_IdempotentCommands :
    (∃ t u, exec .resync beforeLast = .next t ∧ exec .resync t = .next u) ∧
      ∃ t, exec (.send 1 [0xFF]) beforeLast = .next t := ⟨⟨_, _, rfl, rfl⟩, _, rfl⟩

/-- Two engines that differ in cursors, ring contents and a payload byte not yet counted. -/
theorem witness_DeadStateIsInvisible :
    let other : State := { beforeLast with
      ring := { store := [(7, 0x99)], rd := 9, wr := 9 }
      pbuf := [(0, 0x10), (1, 0x20), (2, 0x30), (5, 0x77)] }
    beforeLast.Inv ∧ other.Inv ∧ SameVisible beforeLast other ∧ ∃ t, step beforeLast = .next t :=
  ⟨inv_beforeLast,
    inv_of_inFrame (by decide +kernel)
      (by simp [State.FrameShape, beforeLast, inPhase, hunting, configOf, State.initial, small, Phase.code, fitsForm])
      (by simp [State.FieldsAsReceived, beforeLast, inPhase, hunting, configOf, Phase.code, fitsForm]),
    ⟨rfl, rfl, rfl, rfl, rfl, rfl, rfl, rfl, by decide⟩, _, rfl⟩

theorem witness_EnginesAreIsolated :
    ∃ after, execOn [State.reset, beforeLast] ⟨1, by decide⟩ (.receive [0x40#8]) = .next after := ⟨_, rfl⟩

end Sys2Proof.Tests
end

section
/-! What a step and what each command but RECEIVE can do, said once: a step by what stands at the head of the command
port, and a command by the four ways it can change the state. -/

namespace Sys2Proof.Machine

/-- Everything a step that goes on can do: take the reset, wait, refuse an illegal opcode, or run the command at the head
of the command port (46_commands.md R200, 30_encoding.md R78). -/
theorem step_eq_next {s t : State} : step s = .next t ↔
    (s.resetLine = true ∧ t = s.hardReset) ∨
    (s.resetLine = false ∧
      ((s.fetch = .incomplete ∧ t = s) ∨
        (∃ op rest, s.fetch = .illegal op rest ∧ t = (s.consumeTo rest).respond .illegalCommand) ∨
        ∃ i rest, s.fetch = .command i rest ∧ exec i (s.consumeTo rest) = .next t)) := by
  unfold step
  cases hr : s.resetLine with
  | true => simp [eq_comm]
  | false => cases hf : s.fetch <;> simp [execIllegal, eq_comm]

/-- Everything CONFIGURE can do (46_commands.md R204): refuse twice over, or write the configuration. -/
theorem execConfigure_eq_next {chan : Byte} {lf tf : Form} {rsv : BitVec 2} {mk : List Byte} {s t : State} :
    execConfigure chan lf tf rsv mk s = .next t ↔
      (s.cfg.valid = true ∧ t = s.respond .alreadyConfigured) ∨
      (s.cfg.valid = false ∧ configLegal s.params chan rsv mk = false ∧ t = s.respond .badConfig) ∨
      (s.cfg.valid = false ∧ configLegal s.params chan rsv mk = true ∧
        t = { s with cfg := configOf chan lf tf mk }.channelReset.clearFlags.respond .ok) := by
  unfold execConfigure
  cases s.cfg.valid <;> cases configLegal s.params chan rsv mk <;> simp [eq_comm]

/-- Everything SEND can do (46_commands.md R212, R214). -/
theorem execSend_eq_next {type : Word} {payload : List Byte} {s t : State} : execSend type payload s = .next t ↔
    (s.cfg.valid = false ∧ t = s.respond .notConfigured) ∨
    (s.cfg.valid = true ∧ encodeFrame s.cfg type payload = none ∧ t = s.respond .rangeError) ∨
    (s.cfg.valid = true ∧ ∃ frame, encodeFrame s.cfg type payload = some frame ∧ t = (s.emitTx frame).respond .ok) := by
  unfold execSend
  cases s.cfg.valid <;> cases encodeFrame s.cfg type payload <;> simp [eq_comm]

/-- Everything RESYNC can do (46_commands.md R213, R214). -/
theorem execResync_eq_next {s t : State} : execResync s = .next t ↔
    (s.cfg.valid = false ∧ t = s.respond .notConfigured) ∨
    (s.cfg.valid = true ∧ t = s.channelReset.respond .ok) := by
  unfold execResync
  cases s.cfg.valid <;> simp [eq_comm]

/-- Everything READ_REG can do (46_commands.md R222). -/
theorem execReadReg_eq_next {regnum : Byte} {s t : State} : execReadReg regnum s = .next t ↔
    (RegName.ofNumber regnum = none ∧ t = s.respond .badRegister) ∨
    ∃ r, RegName.ofNumber regnum = some r ∧ t = s.respondValue (s.regValue r) := by
  unfold execReadReg
  cases RegName.ofNumber regnum <;> simp [eq_comm]

/-- CLEAR_STATUS does one thing (46_commands.md R224). -/
theorem execClearStatus_eq_next {s t : State} : execClearStatus s = .next t ↔ t = s.clearFlags.respond .ok := by
  simp [execClearStatus, eq_comm]

/-- The four ways a command other than RECEIVE changes the state: its outputs only, the flags (CLEAR_STATUS), the channel
(RESYNC), or the configuration with both (CONFIGURE). -/
theorem exec_eq_next_cases {i : Instr} {s t : State} (hi : ∀ data, i ≠ .receive data) (h : exec i s = .next t) :
    (∃ es, t = { s with outputs := s.outputs ++ es }) ∨
    (i = .clearStatus ∧ t = s.clearFlags.respond .ok) ∨
    (i = .resync ∧ s.cfg.valid = true ∧ t = s.channelReset.respond .ok) ∨
    ∃ chan lf tf rsv mk, i = .configure chan lf tf rsv mk ∧ s.cfg.valid = false ∧
      configLegal s.params chan rsv mk = true ∧
      t = { s with cfg := configOf chan lf tf mk }.channelReset.clearFlags.respond .ok := by
  cases i with
  | receive data => exact absurd rfl (hi data)
  | configure chan lf tf rsv mk =>
    rcases execConfigure_eq_next.1 h with ⟨-, rfl⟩ | ⟨-, -, rfl⟩ | ⟨hv, hl, rfl⟩
    · exact .inl ⟨_, rfl⟩
    · exact .inl ⟨_, rfl⟩
    · exact .inr (.inr (.inr ⟨_, _, _, _, _, rfl, hv, hl, rfl⟩))
  | send type payload =>
    rcases execSend_eq_next.1 h with ⟨-, rfl⟩ | ⟨-, -, rfl⟩ | ⟨-, frame, -, rfl⟩
    · exact .inl ⟨_, rfl⟩
    · exact .inl ⟨_, rfl⟩
    · exact .inl ⟨[.tx frame, .response (.code .ok)], by simp [State.respond, State.emitTx, State.emit]⟩
  | resync =>
    rcases execResync_eq_next.1 h with ⟨-, rfl⟩ | ⟨hv, rfl⟩
    · exact .inl ⟨_, rfl⟩
    · exact .inr (.inr (.inl ⟨rfl, hv, rfl⟩))
  | readReg regnum =>
    rcases execReadReg_eq_next.1 h with ⟨-, rfl⟩ | ⟨r, -, rfl⟩ <;> exact .inl ⟨_, rfl⟩
  | clearStatus => exact .inr (.inl ⟨rfl, execClearStatus_eq_next.1 h⟩)

/-- RECEIVE changes neither the configuration nor the parameters, and only ever sets flags (10_state.md R23, R29). -/
theorem execReceive_cfg_flags {data : List Byte} {s t : State} (h : execReceive data s = .next t) :
    t.cfg = s.cfg ∧ (s.flags.ovf = true → t.flags.ovf = true) ∧ (s.flags.herr = true → t.flags.herr = true) ∧
      (s.flags.cerr = true → t.flags.cerr = true) := by
  rcases execReceive_eq_next.1 h with ⟨-, rfl⟩ | ⟨-, -, rfl⟩ | ⟨-, s1, s2, hw, hd, rfl⟩
  · exact ⟨rfl, id, id, id⟩
  · exact ⟨rfl, fun _ => rfl, id, id⟩
  · obtain ⟨-, rfl⟩ := State.ringWrite_eq_some.1 hw
    have hb := burstFrame_drain hd
    exact ⟨hb.cfg, fun ho => hb.ovf.trans ho, hb.herr, hb.cerr⟩

/-- No command writes the configuration of a configured engine (10_state.md R23). -/
theorem exec_cfg {i : Instr} {s t : State} (hv : s.cfg.valid = true) (h : exec i s = .next t) : t.cfg = s.cfg := by
  by_cases hi : ∃ data, i = .receive data
  · obtain ⟨data, rfl⟩ := hi
    exact (execReceive_cfg_flags h).1
  · rcases exec_eq_next_cases (fun data hd => hi ⟨data, hd⟩) h with
      ⟨es, rfl⟩ | ⟨-, rfl⟩ | ⟨-, -, rfl⟩ | ⟨_, _, _, _, _, -, hf, -⟩
    · rfl
    · rfl
    · rfl
    · simp [hv] at hf

/-- No step but a reset writes the configuration of a configured engine (10_state.md R23). -/
theorem step_cfg {s t : State} (hv : s.cfg.valid = true) (h : step s = .next t) :
    t.cfg = s.cfg ∨ (s.resetLine = true ∧ t.cfg = ChannelConfig.reset) := by
  rcases step_eq_next.1 h with ⟨hr, rfl⟩ | ⟨-, ⟨-, rfl⟩ | ⟨op, rest, -, rfl⟩ | ⟨i, rest, -, hi⟩⟩
  · exact .inr ⟨hr, rfl⟩
  · exact .inl rfl
  · exact .inl rfl
  · exact .inl (exec_cfg (s := s.consumeTo rest) hv hi)

/-- Settles O54: the four ways a command changes the state write a configuration only where there was none. -/
theorem configurationIsImmutable : Obligations.ConfigurationIsImmutable := by
  refine ⟨fun s chan lf tf rsv mk hv => ?_, fun i s t => exec_cfg, fun s t hv hr h => ?_, fun s t hv h hne => ?_⟩
  · exact execConfigure_eq_next.2 (.inl ⟨hv, rfl⟩)
  · rcases step_cfg hv h with h | ⟨hr', -⟩
    · exact h
    · simp [hr] at hr'
  · exact (step_cfg hv h).resolve_left hne

/-- Settles O23, by the four ways a command other than RECEIVE changes the state. -/
theorem otherCommandsFrame : Obligations.OtherCommandsFrame := by
  intro i s t hi h
  rcases exec_eq_next_cases hi h with ⟨es, rfl⟩ | ⟨rfl, rfl⟩ | ⟨rfl, -, rfl⟩ | ⟨_, _, _, _, _, rfl, -, -, rfl⟩
  all_goals simp

end Sys2Proof.Machine
end

section
/-! What one received byte reads: neither the ring, nor the flags, nor a payload byte not yet counted. Two engines that
agree on all else answer a byte alike, and agree again. -/

namespace Sys2Proof.Machine

/-- The engines `s` and `u` differ in no more than the ring, the sticky flags and the payload store beyond the bytes counted
so far. -/
structure Alike (s u : State) : Prop where
  params : u.params = s.params
  cfg : u.cfg = s.cfg
  sync : u.sync = s.sync
  frame : u.frame = s.frame
  cmdIn : u.cmdIn = s.cmdIn
  resetLine : u.resetLine = s.resetLine
  outputs : u.outputs = s.outputs
  payload : ∀ i, i < s.frame.rxCount.toNat → u.pbufByte i = s.pbufByte i

/-- Where `s` went to `t` and `u` to `v`: `t` and `v` are alike, and equal in flags, in the payload store and in the ring
where `s` and `u` were. -/
structure StaysAlike (s u t v : State) : Prop where
  alike : Alike t v
  flags : u.flags = s.flags → v.flags = t.flags
  pbuf : u.pbuf = s.pbuf → v.pbuf = t.pbuf
  ring : u.ring = s.ring → v.ring = t.ring

/-- Two answers of the engines `s` and `u`: the same fault, or states that stay alike. -/
inductive AlikeAnswers (s u : State) : Except Fault State → Except Fault State → Prop
  | ok {t v : State} (h : StaysAlike s u t v) : AlikeAnswers s u (.ok t) (.ok v)
  | error (f : Fault) : AlikeAnswers s u (.error f) (.error f)

theorem Alike.self {s u : State} (h : Alike s u) : StaysAlike s u s u := ⟨h, id, id, id⟩

theorem StaysAlike.trans {s u t v t' v' : State} (h : StaysAlike s u t v) (h' : StaysAlike t v t' v') :
    StaysAlike s u t' v' :=
  ⟨h'.alike, fun e => h'.flags (h.flags e), fun e => h'.pbuf (h.pbuf e), fun e => h'.ring (h.ring e)⟩

theorem StaysAlike.transAnswers {s u t v : State} {x y : Except Fault State} (h : StaysAlike s u t v)
    (h' : AlikeAnswers t v x y) : AlikeAnswers s u x y := by
  cases h' with
  | ok h' => exact .ok (h.trans h')
  | error f => exact .error f

/-! ## The operations of the decoder -/

/-- The payload byte `b` stored at PBUF[RX_COUNT] and counted (45_decoder.md R190). -/
def State.storePayload (s : State) (b : Byte) : State :=
  { s with pbuf := s.pbuf.write s.frame.rxCount.toNat b, frame := { s.frame with rxCount := s.frame.rxCount + 1 } }

/-- step_PAYLOAD stores its byte, and completes the frame with its last one (45_decoder.md R190). -/
theorem State.stepPayload_eq (s : State) (b : Byte) : s.stepPayload b =
    if s.frame.rxCount.toNat < s.params.maxPayload then
      if s.frame.rxCount + 1 = s.frame.rxLen then (s.storePayload b).complete else .ok (s.storePayload b)
    else .error (.indexOutOfRange .pbuf) := by
  unfold State.stepPayload writeCell
  by_cases hw : s.frame.rxCount.toNat < s.params.maxPayload
  · simp only [hw, if_true]; rfl
  · simp only [hw, if_false]

section
variable {s u : State}

theorem Alike.headerFail (h : Alike s u) : StaysAlike s u s.headerFail u.headerFail :=
  ⟨⟨h.params, h.cfg, rfl, rfl, h.cmdIn, h.resetLine, h.outputs, by simp⟩, fun e => by simp [e], id, id⟩

theorem Alike.checksumFail (h : Alike s u) : StaysAlike s u s.checksumFail u.checksumFail :=
  ⟨⟨h.params, h.cfg, rfl, rfl, h.cmdIn, h.resetLine, h.outputs, by simp⟩, fun e => by simp [e], id, id⟩

theorem Alike.enterFrame (h : Alike s u) : StaysAlike s u s.enterFrame u.enterFrame :=
  ⟨⟨h.params, h.cfg, rfl, rfl, h.cmdIn, h.resetLine, h.outputs, by simp⟩, id, id, fun e => by simp [e]⟩

/-- An update of the frame that keeps the count of payload bytes. -/
theorem Alike.updateFrame (h : Alike s u) (g : Frame → Frame) (hg : (g s.frame).rxCount = s.frame.rxCount) :
    StaysAlike s u { s with frame := g s.frame } { u with frame := g u.frame } :=
  ⟨⟨h.params, h.cfg, h.sync, congrArg g h.frame, h.cmdIn, h.resetLine, h.outputs,
    fun i hi => h.payload i (hg ▸ hi)⟩, id, id, id⟩

theorem Alike.setPhase (h : Alike s u) (p : Phase) : StaysAlike s u (s.setPhase p) (u.setPhase p) :=
  h.updateFrame (fun f => { f with phase := p }) rfl

theorem Alike.setLen (h : Alike s u) (v : Word) :
    StaysAlike s u { s with frame := { s.frame with rxLen := v } } { u with frame := { u.frame with rxLen := v } } :=
  h.updateFrame (fun f => { f with rxLen := v }) rfl

theorem Alike.setType (h : Alike s u) (v : Word) :
    StaysAlike s u { s with frame := { s.frame with rxType := v } } { u with frame := { u.frame with rxType := v } } :=
  h.updateFrame (fun f => { f with rxType := v }) rfl

/-- The payload read is the same where every byte of it is counted. -/
theorem Alike.receivedPayload (h : Alike s u) (hc : s.frame.rxLen.toNat ≤ s.frame.rxCount.toNat) :
    u.receivedPayload = s.receivedPayload := by
  unfold State.receivedPayload
  rw [h.params, h.frame]
  exact readCells_congr fun k hk => h.payload _ (by omega)

theorem Alike.emitPacket_endFrame (h : Alike s u) (p : Packet) :
    StaysAlike s u (s.emitPacket p).endFrame (u.emitPacket p).endFrame :=
  ⟨⟨h.params, h.cfg, rfl, rfl, h.cmdIn, h.resetLine, by simp [h.outputs], by simp⟩, id, id, id⟩

theorem Alike.deliver (h : Alike s u) (hc : s.frame.rxLen.toNat ≤ s.frame.rxCount.toNat) :
    AlikeAnswers s u s.deliver u.deliver := by
  unfold State.deliver
  rw [h.receivedPayload hc, h.cfg, h.frame]
  cases s.receivedPayload with
  | error f => exact .error f
  | ok p => exact .ok (h.emitPacket_endFrame _)

theorem Alike.complete (h : Alike s u) (hc : s.frame.rxLen.toNat ≤ s.frame.rxCount.toNat) :
    AlikeAnswers s u s.complete u.complete := by
  unfold State.complete
  rw [h.receivedPayload hc, h.frame]
  cases s.receivedPayload with
  | error f => exact .error f
  | ok p =>
    dsimp only
    split
    · exact h.deliver hc
    · exact .ok h.checksumFail

theorem Alike.lenDone (h : Alike s u) : StaysAlike s u s.lenDone u.lenDone := by
  unfold State.lenDone
  rw [h.params, h.frame]
  split
  · exact h.headerFail
  · exact h.setPhase _

theorem Alike.typeDone (h : Alike s u) : AlikeAnswers s u s.typeDone u.typeDone := by
  unfold State.typeDone
  rw [h.frame]
  split
  · next h0 => exact h.deliver (by simp [h0])
  · exact .ok (h.setPhase _)

/-! ## The phase handlers -/

theorem Alike.stepLenB0 (h : Alike s u) (b : Byte) : StaysAlike s u (s.stepLenB0 b) (u.stepLenB0 b) := by
  unfold State.stepLenB0
  rw [congrArg ChannelConfig.lenForm h.cfg]
  split
  · split
    · exact h.headerFail
    · next v _ => exact (h.setLen v).trans (h.setLen v).alike.lenDone
  · split
    · exact h.headerFail
    · next v _ => exact (h.setLen v).trans ((h.setLen v).alike.setPhase _)

theorem Alike.stepLenB1 (h : Alike s u) (b : Byte) : StaysAlike s u (s.stepLenB1 b) (u.stepLenB1 b) := by
  unfold State.stepLenB1
  rw [congrArg Frame.rxLen h.frame]
  split
  · exact h.headerFail
  · next v _ => exact (h.setLen v).trans (h.setLen v).alike.lenDone

theorem Alike.stepTypeB0 (h : Alike s u) (b : Byte) : AlikeAnswers s u (s.stepTypeB0 b) (u.stepTypeB0 b) := by
  unfold State.stepTypeB0
  rw [congrArg ChannelConfig.typeForm h.cfg]
  split
  · split
    · exact .ok h.headerFail
    · next v _ => exact (h.setType v).transAnswers (h.setType v).alike.typeDone
  · split
    · exact .ok h.headerFail
    · next v _ => exact .ok ((h.setType v).trans ((h.setType v).alike.setPhase _))

theorem Alike.stepTypeB1 (h : Alike s u) (b : Byte) : AlikeAnswers s u (s.stepTypeB1 b) (u.stepTypeB1 b) := by
  unfold State.stepTypeB1
  rw [congrArg Frame.rxType h.frame]
  split
  · exact .ok h.headerFail
  · next v _ => exact (h.setType v).transAnswers (h.setType v).alike.typeDone

theorem Alike.stepCsB0 (h : Alike s u) (b : Byte) : StaysAlike s u (s.stepCsB0 b) (u.stepCsB0 b) := by
  unfold State.stepCsB0
  rw [congrArg Frame.rxLen h.frame]
  exact h.updateFrame (fun f => { f with rxCsx := b.setWidth 16, phase := _ }) rfl

theorem Alike.stepCsB1 (h : Alike s u) (b : Byte) : StaysAlike s u (s.stepCsB1 b) (u.stepCsB1 b) :=
  h.updateFrame (fun f => { f with rxCsx := f.rxCsx ||| (b.setWidth 16 <<< 8), phase := .payload }) rfl

/-- Both engines store the payload byte at RX_COUNT, so that it is counted in both. -/
theorem Alike.storePayload (h : Alike s u) (b : Byte) : StaysAlike s u (s.storePayload b) (u.storePayload b) := by
  have hcount : u.frame.rxCount = s.frame.rxCount := congrArg Frame.rxCount h.frame
  refine ⟨⟨h.params, h.cfg, h.sync, ?_, h.cmdIn, h.resetLine, h.outputs, fun i hi => ?_⟩, id, fun e => ?_, id⟩
  · simp [State.storePayload, h.frame]
  · have hle : (s.frame.rxCount + 1).toNat ≤ s.frame.rxCount.toNat + 1 := by
      rw [BitVec.toNat_add]; exact Nat.mod_le _ _
    have hi' : i < (s.frame.rxCount + 1).toNat := hi
    by_cases he : i = s.frame.rxCount.toNat
    · simp [State.storePayload, hcount, he, Memory.read_write_same]
    · simpa [State.storePayload, hcount, Memory.read_write_other _ _ _ _ he] using h.payload i (by omega)
  · simp [State.storePayload, hcount, e]

theorem Alike.stepPayload (h : Alike s u) (b : Byte) : AlikeAnswers s u (s.stepPayload b) (u.stepPayload b) := by
  have hs := h.storePayload b
  rw [State.stepPayload_eq, State.stepPayload_eq, h.params, congrArg Frame.rxCount h.frame, congrArg Frame.rxLen h.frame]
  split
  · split
    · next hl => exact hs.transAnswers (hs.alike.complete (congrArg BitVec.toNat hl).ge)
    · exact .ok hs
  · exact .error _

theorem Alike.decodeStep (h : Alike s u) (b : Byte) : AlikeAnswers s u (s.decodeStep b) (u.decodeStep b) := by
  unfold State.decodeStep
  rw [congrArg Frame.phase h.frame]
  cases s.frame.phase with
  | lenB0 => exact .ok (h.stepLenB0 b)
  | lenB1 => exact .ok (h.stepLenB1 b)
  | typeB0 => exact h.stepTypeB0 b
  | typeB1 => exact h.stepTypeB1 b
  | csB0 => exact .ok (h.stepCsB0 b)
  | csB1 => exact .ok (h.stepCsB1 b)
  | payload => exact h.stepPayload b

theorem Alike.syncStep (h : Alike s u) (b : Byte) : AlikeAnswers s u (s.syncStep b) (u.syncStep b) := by
  unfold State.syncStep
  rw [congrArg ChannelConfig.marker h.cfg, congrArg ChannelConfig.n h.cfg, h.sync]
  split
  · exact .error _
  · split
    · exact .ok h.enterFrame
    · exact .ok ⟨⟨h.params, h.cfg, rfl, h.frame, h.cmdIn, h.resetLine, h.outputs, h.payload⟩, id, id, id⟩

/-- Alike engines answer a received byte alike. -/
theorem Alike.processByte (h : Alike s u) (b : Byte) : AlikeAnswers s u (s.processByte b) (u.processByte b) := by
  unfold State.processByte
  rw [h.sync]
  split
  · exact h.syncStep b
  · exact h.decodeStep b

end

/-! ## Flags and ring, replaced -/

/-- The engine with another ring. -/
def State.withRing (s : State) (r : RingBuffer) : State := { s with ring := r }

/-- The engine with other flags. -/
def State.withFlags (s : State) (o : StickyFlags) : State := { s with flags := o }

@[simp] theorem State.withRing_ring (s : State) (r : RingBuffer) : (s.withRing r).ring = r := rfl
@[simp] theorem State.withRing_params (s : State) (r : RingBuffer) : (s.withRing r).params = s.params := rfl

theorem Alike.withFlags (s : State) (o : StickyFlags) : Alike s (s.withFlags o) :=
  ⟨rfl, rfl, rfl, rfl, rfl, rfl, rfl, fun _ _ => rfl⟩

theorem Alike.withRing (s : State) (r : RingBuffer) : Alike s (s.withRing r) :=
  ⟨rfl, rfl, rfl, rfl, rfl, rfl, rfl, fun _ _ => rfl⟩

/-- Alike engines with one payload store differ in ring and flags only. -/
theorem Alike.eq_withRing_withFlags {s u : State} (h : Alike s u) (hp : u.pbuf = s.pbuf) :
    u = (s.withRing u.ring).withFlags u.flags := by
  obtain ⟨hparams, hcfg, hsync, hframe, hcmdIn, hreset, houtputs, -⟩ := h
  cases s; cases u
  simp_all [State.withRing, State.withFlags]

theorem AlikeAnswers.of_ok {s u t : State} {y : Except Fault State} (h : AlikeAnswers s u (.ok t) y) :
    ∃ v, y = .ok v ∧ StaysAlike s u t v := by
  cases h with
  | ok h => exact ⟨_, rfl, h⟩

theorem AlikeAnswers.of_error {s u : State} {f : Fault} {y : Except Fault State} (h : AlikeAnswers s u (.error f) y) :
    y = .error f := by
  cases h; rfl

/-- The ring after a byte: cleared where the byte completes a marker (41_synchronizer.md R123), else as it was. -/
theorem State.processByte_ring {s t : State} {b : Byte} (h : s.processByte b = .ok t) :
    t.ring = if s.sync.mode = .hunting ∧ t.sync.mode = .inFrame then { s.ring with rd := 0, wr := 0 } else s.ring := by
  obtain ⟨-, ⟨hl, rfl⟩ | ⟨hl, hr⟩⟩ := byteFrame_processByte h
  · exact (if_pos (c := _ ∧ _) hl).symm
  · exact hr.trans (if_neg (c := _ ∧ _) hl).symm

/-- With another ring, a byte raises the fault it would raise. -/
theorem State.processByte_withRing_error {s : State} {b : Byte} {f : Fault} (r : RingBuffer)
    (h : s.processByte b = .error f) : (s.withRing r).processByte b = .error f :=
  (h ▸ (Alike.withRing s r).processByte b).of_error

/-- With another ring, a byte does the same to all else. -/
theorem State.processByte_withRing_ok {s t : State} {b : Byte} (r : RingBuffer) (h : s.processByte b = .ok t) :
    (s.withRing r).processByte b = .ok (t.withRing
      (if s.sync.mode = .hunting ∧ t.sync.mode = .inFrame then { r with rd := 0, wr := 0 } else r)) := by
  obtain ⟨v, hv, hst⟩ := (h ▸ (Alike.withRing s r).processByte b).of_ok
  rw [hv, hst.alike.eq_withRing_withFlags (hst.pbuf rfl), hst.flags rfl, State.processByte_ring hv, hst.alike.sync]
  rfl

/-- Where only the flags differed before, only the flags differ after. -/
theorem StaysAlike.eq_withFlags {s t v : State} {o : StickyFlags} (h : StaysAlike s (s.withFlags o) t v) :
    v = t.withFlags v.flags := by
  have hv := h.alike.eq_withRing_withFlags (h.pbuf rfl)
  rwa [h.ring rfl] at hv

/-- With other flags, a byte does the same to all else. -/
theorem State.processByte_withFlags {s t : State} {b : Byte} (o : StickyFlags) (h : s.processByte b = .ok t) :
    ∃ o', (s.withFlags o).processByte b = .ok (t.withFlags o') := by
  obtain ⟨v, hv, hst⟩ := (h ▸ (Alike.withFlags s o).processByte b).of_ok
  exact ⟨v.flags, hv.trans (congrArg _ hst.eq_withFlags)⟩

end Sys2Proof.Machine
end

section
/-! RECEIVE without the ring: the drain loop takes the bytes of the burst out of the ring in the order they were written,
and what it makes of them is `absorb`. -/

namespace Sys2Proof.Machine

/-! ## A ring that holds a burst -/

/-- The unread bytes of the ring are `bytes`, the oldest first, in a ring of `c` slots (40_ring_buffer.md R101 to R104). -/
structure RingBuffer.Holds (c : Nat) (r : RingBuffer) (bytes : List Byte) : Prop where
  fits : bytes.length < c
  rdInRange : r.rd < c
  wr : r.wr = (r.rd + bytes.length) % c
  slot : ∀ (i : Nat) (h : i < bytes.length), r.store.read ((r.rd + i) % c) = some bytes[i]

/-- The ring once drained: both cursors where the burst ended, or at 0 where a marker cleared the ring (41_synchronizer.md
R123). -/
def RingBuffer.drained (r : RingBuffer) (locked : Bool) : RingBuffer :=
  if locked then { r with rd := 0, wr := 0 } else { r with rd := r.wr }

/-- The ring counts the bytes it holds. -/
theorem RingBuffer.Holds.ringCount {a : State} {r : RingBuffer} {bytes : List Byte}
    (h : r.Holds a.params.ringCapacity bytes) : (a.withRing r).ringCount = bytes.length := by
  have hfits := h.fits
  unfold State.ringCount
  rw [State.withRing_ring, State.withRing_params, h.wr, Int.natCast_mod, Int.emod_sub_emod, Nat.cast_add,
    add_sub_cancel_left, Int.emod_eq_of_lt (by omega) (by omega)]
  simp

/-- Taking the oldest byte leaves the others. -/
theorem RingBuffer.Holds.tail {c : Nat} {r : RingBuffer} {b : Byte} {bytes : List Byte} (h : r.Holds c (b :: bytes)) :
    ({ r with rd := (r.rd + 1) % c } : RingBuffer).Holds c bytes := by
  have hfits := h.fits
  rw [List.length_cons] at hfits
  refine ⟨by omega, Nat.mod_lt _ (by omega), ?_, fun i hi => ?_⟩
  · rw [h.wr, List.length_cons, Nat.mod_add_mod]
    congr 1; omega
  · have := h.slot (i + 1) (by simpa using hi)
    rw [Nat.mod_add_mod, Nat.add_assoc, Nat.add_comm 1 i]
    simpa using this

/-- RingReadOne takes the oldest byte (40_ring_buffer.md R104). -/
theorem State.ringReadOne_of_holds {a : State} {r : RingBuffer} {b : Byte} {bytes : List Byte}
    (h : r.Holds a.params.ringCapacity (b :: bytes)) : (a.withRing r).ringReadOne =
      .ok (b, a.withRing { r with rd := (r.rd + 1) % a.params.ringCapacity }) := by
  have h0 := h.slot 0 (by simp)
  rw [Nat.add_zero, Nat.mod_eq_of_lt h.rdInRange] at h0
  have hc : (a.withRing r).ringCount ≠ 0 := by simp [h.ringCount]
  exact State.ringReadOne_eq_ok.2 ⟨hc, h.rdInRange, h0, rfl⟩

/-- The ring with a burst written to it (40_ring_buffer.md R103). -/
def State.writtenRing (s : State) (bytes : List Byte) : RingBuffer :=
  { store := storeBurst s.params.ringCapacity s.ring.wr bytes s.ring.store
    rd := s.ring.rd
    wr := (s.ring.wr + bytes.length) % s.params.ringCapacity }

/-- An empty ring that a burst is written to holds the burst. -/
theorem State.writtenRing_holds {s : State} {bytes : List Byte} (hr : s.ring.rd < s.params.ringCapacity)
    (he : s.ring.rd = s.ring.wr) (hb : bytes.length < s.params.ringCapacity) :
    (s.writtenRing bytes).Holds s.params.ringCapacity bytes := by
  unfold State.writtenRing
  exact ⟨hb, hr, by rw [he], fun i hi => by rw [he]; exact read_storeBurst hb.le hi⟩

/-! ## The drain loop -/

/-- An empty ring is drained at once. -/
theorem drain_of_empty {s : State} (h : s.ringCount = 0) (k : Nat) : drain k s = .ok s := by
  cases k with
  | zero => rfl
  | succ k => exact drain_succ_eq_ok.2 (.inl ⟨h, rfl⟩)

/-- Draining the burst a ring `r` holds is absorbing it, whatever ring the engine `a` has beside. -/
theorem drain_eq_absorb {bytes : List Byte} {a : State} {r : RingBuffer} {k : Nat}
    (h : r.Holds a.params.ringCapacity bytes) (hk : bytes.length ≤ k) :
    drain k (a.withRing r) = (absorb bytes a).map fun p => p.1.withRing (r.drained p.2) := by
  have hcount := h.ringCount
  induction bytes generalizing a r k with
  | nil =>
    have hw : r.wr = r.rd := by rw [h.wr, List.length_nil, Nat.add_zero, Nat.mod_eq_of_lt h.rdInRange]
    have hr : r.drained false = r := by cases r; simp_all [RingBuffer.drained]
    simp only [drain_of_empty hcount, absorb, Except.map, hr]
  | cons b bytes ih =>
    obtain ⟨k, rfl⟩ : ∃ k', k = k' + 1 := ⟨k - 1, by simp at hk; omega⟩
    rw [drain, if_neg (by simp [hcount]), State.ringReadOne_of_holds h, absorb]
    cases hp : a.processByte b with
    | error f => simp [State.processByte_withRing_error _ hp, Except.map]
    | ok t =>
      have hparams : t.params = a.params := (byteFrame_processByte hp).1.params
      simp only [State.processByte_withRing_ok _ hp]
      split
      · rw [drain_of_empty (State.ringCount_eq_zero_of_eq rfl)]
        rfl
      · have ht := h.tail
        rw [← hparams] at ht
        rw [← hparams, ih ht (by simpa using hk) ht.ringCount]
        rfl

/-! ## RECEIVE -/

section
variable {s : State} {data : List Byte}

/-- Between commands a burst of C bytes or more overflows the ring (40_ring_buffer.md R109). -/
theorem execReceive_overflow (hv : s.cfg.valid = true) (hd : s.RingDrained) (hl : s.params.ringCapacity ≤ data.length)
    (hc : 0 < s.params.ringCapacity) : execReceive data s = .next ((s.recover .overflow).respond .ok) := by
  refine execReceive_eq_next.2 (.inr (.inl ⟨hv, State.ringWrite_eq_none.2 ?_, rfl⟩))
  rw [show s.ringCount = 0 from hd]
  omega

/-- Between commands a burst that fits is absorbed: RECEIVE goes on exactly where `absorb` does. -/
theorem execReceive_eq_next_absorb (hv : s.cfg.valid = true) (hd : s.RingDrained)
    (hr : s.ring.rd < s.params.ringCapacity) (hw : s.ring.wr < s.params.ringCapacity)
    (hl : data.length < s.params.ringCapacity) {t : State} : execReceive data s = .next t ↔
      ∃ a locked, absorb data s = .ok (a, locked) ∧
        t = (a.withRing ((s.writtenRing data).drained locked)).respond .ok := by
  have he : s.ring.rd = s.ring.wr := (State.ringCount_eq_zero_iff hr hw).1 hd
  have hh := State.writtenRing_holds hr he hl
  have hfits : s.ringCount + data.length ≤ s.params.ringCapacity - 1 := by
    rw [show s.ringCount = 0 from hd]; omega
  have hwrite : s.ringWrite data = some (s.withRing (s.writtenRing data)) := State.ringWrite_eq_some.2 ⟨hfits, rfl⟩
  rw [execReceive_eq_next]
  simp only [hv, hwrite, Bool.true_eq_false, false_and, false_or, true_and, reduceCtorEq, Option.some.injEq,
    exists_and_left, exists_eq_left', hh.ringCount, drain_eq_absorb hh le_rfl]
  cases ha : absorb data s with
  | error f => simp [Except.map]
  | ok p =>
    obtain ⟨a, locked⟩ := p
    simp only [Except.map, Except.ok.injEq, exists_eq_left', Prod.mk.injEq]
    constructor
    · exact fun h => ⟨a, locked, ⟨rfl, rfl⟩, h⟩
    · rintro ⟨_, _, ⟨rfl, rfl⟩, h⟩
      exact h

/-- A byte of a burst keeps what every byte keeps. -/
theorem absorb_keeps {P : State → Prop} (hP : ∀ (s t : State) (b : Byte), P s → s.processByte b = .ok t → P t)
    {t : State} {locked : Bool} (hs : P s) (h : absorb data s = .ok (t, locked)) : P t := by
  induction data generalizing s with
  | nil => cases h; exact hs
  | cons b bytes ih =>
    rw [absorb] at h
    split at h
    · cases h
    · next u hu =>
      split at h
      · cases h; exact hP s _ b hs hu
      · exact ih (hP s u b hs hu) h

/-- Alike engines absorb a burst alike. -/
theorem Alike.absorb {u t : State} {locked : Bool} (h : Alike s u) (ha : absorb data s = .ok (t, locked)) :
    ∃ v, absorb data u = .ok (v, locked) ∧ StaysAlike s u t v := by
  induction data generalizing s u with
  | nil => cases ha; exact ⟨u, rfl, h.self⟩
  | cons b bytes ih =>
    rw [Machine.absorb] at ha
    split at ha
    · cases ha
    · next t1 h1 =>
      obtain ⟨v1, hv1, hst⟩ := AlikeAnswers.of_ok (h1 ▸ h.processByte b)
      rw [Machine.absorb, hv1]
      dsimp only
      rw [h.sync, hst.alike.sync]
      split at ha
      · next hlock =>
        cases ha
        exact ⟨v1, if_pos hlock, hst⟩
      · next hlock =>
        obtain ⟨v, hv, hst'⟩ := ih hst.alike ha
        exact ⟨v, (if_neg hlock).trans hv, hst.trans hst'⟩

end

end Sys2Proof.Machine
end

section
/-! The invariant between two bytes of a burst: what every received byte keeps of it, phase by phase. The ring is no part
of it, and no packet decoder handler touches the ring. -/

namespace Sys2Proof.Machine

/-! ## The frame in progress, phase by phase -/

/-- RX_LEN once it is complete (10_state.md R40). -/
def Frame.LenFits (p : Params) (c : ChannelConfig) (f : Frame) : Prop :=
  f.rxLen.toNat ≤ p.maxPayload ∧ fitsForm c.lenForm f.rxLen

/-- What the fields of the frame in progress hold in each phase: R40 of 10_state.md and `State.FieldsAsReceived` together. -/
def Frame.Fits (p : Params) (c : ChannelConfig) (f : Frame) : Prop :=
  match f.phase with
  | .lenB0 => f.rxLen = 0 ∧ f.rxType = 0 ∧ f.rxCsx = 0 ∧ f.rxCount = 0
  | .lenB1 => c.lenForm = .two ∧ f.rxLen.toNat ≤ 127 ∧ f.rxType = 0 ∧ f.rxCsx = 0 ∧ f.rxCount = 0
  | .typeB0 => f.LenFits p c ∧ f.rxType = 0 ∧ f.rxCsx = 0 ∧ f.rxCount = 0
  | .typeB1 => c.typeForm = .two ∧ f.LenFits p c ∧ f.rxType.toNat ≤ 127 ∧ f.rxCsx = 0 ∧ f.rxCount = 0
  | .csB0 => f.LenFits p c ∧ 1 ≤ f.rxLen.toNat ∧ fitsForm c.typeForm f.rxType ∧ f.rxCsx = 0 ∧ f.rxCount = 0
  | .csB1 => f.LenFits p c ∧ 32 ≤ f.rxLen.toNat ∧ fitsForm c.typeForm f.rxType ∧ f.rxCsx.toNat ≤ 255 ∧ f.rxCount = 0
  | .payload => f.LenFits p c ∧ f.rxCount.toNat < f.rxLen.toNat ∧ fitsForm c.typeForm f.rxType ∧
      (f.rxLen.toNat < 32 → f.rxCsx.toNat ≤ 255)

/-- The two clauses of the invariant on a frame in progress say exactly that it fits its phase. -/
theorem frameShape_and_fieldsAsReceived_iff {s : State} : s.FrameShape ∧ s.FieldsAsReceived ↔
    (s.sync.mode = .inFrame → s.frame.Fits s.params s.cfg) := by
  unfold State.FrameShape State.FieldsAsReceived Frame.Fits Frame.LenFits
  rw [← imp_and]
  refine imp_congr_right fun _ => ?_
  cases s.frame.phase <;> simp [Phase.code] <;> grind

/-! ## The invariant between two bytes -/

/-- The invariant of a configured engine between two bytes of a burst: `State.Inv` without its clauses on the ring. -/
structure State.ByteInv (s : State) : Prop where
  valid : s.cfg.valid = true
  paramsLegal : s.params.legal
  configInRange : s.ConfigInRange
  markerPadded : ∀ (i : Nat) (h : i < 8), s.cfg.n.toNat ≤ i → s.cfg.marker[i] = 0
  inFrameMatchZero : s.InFrameMatchZero
  huntingFrameIdle : s.HuntingFrameIdle
  frameFits : s.sync.mode = .inFrame → s.frame.Fits s.params s.cfg
  pbufWf : Memory.wf s.pbuf
  pbufWithin : Memory.within s.params.maxPayload s.pbuf
  payloadWritten : ∀ i, i < s.frame.rxCount.toNat → (s.pbufByte i).isSome = true

theorem State.Inv.byteInv {s : State} (h : s.Inv) (hv : s.cfg.valid = true) : s.ByteInv :=
  ⟨hv, h.paramsLegal, h.configInRange, h.markerPadded, h.inFrameMatchZero, h.huntingFrameIdle,
    frameShape_and_fieldsAsReceived_iff.1 ⟨h.frameShape, h.fieldsAsReceived⟩, h.pbufWf, h.pbufWithin, h.payloadWritten⟩

/-- Between commands the ring is drained, its cursors in range and its store canonical. -/
theorem State.ByteInv.inv {s : State} (h : s.ByteInv) (hd : s.RingDrained)
    (hc : s.ring.rd < s.params.ringCapacity ∧ s.ring.wr < s.params.ringCapacity) (hw : Memory.wf s.ring.store)
    (hin : Memory.within s.params.ringCapacity s.ring.store) : s.Inv :=
  have hf := frameShape_and_fieldsAsReceived_iff.2 h.frameFits
  ⟨h.paramsLegal, fun hv => by simp [h.valid] at hv, h.configInRange, h.inFrameMatchZero, h.huntingFrameIdle, hf.1, hd,
    hc, hw, hin, h.pbufWf, h.pbufWithin, h.markerPadded, hf.2, h.payloadWritten⟩

/-- Another ring keeps it. -/
theorem State.ByteInv.withRing {s : State} (h : s.ByteInv) (r : RingBuffer) : (s.withRing r).ByteInv :=
  ⟨h.valid, h.paramsLegal, h.configInRange, h.markerPadded, h.inFrameMatchZero, h.huntingFrameIdle, h.frameFits, h.pbufWf,
    h.pbufWithin, h.payloadWritten⟩

/-- Records on the output ports keep it. -/
theorem State.ByteInv.emit {s : State} (h : s.ByteInv) (e : PortEvent) : (s.emit e).ByteInv :=
  ⟨h.valid, h.paramsLegal, h.configInRange, h.markerPadded, h.inFrameMatchZero, h.huntingFrameIdle, h.frameFits, h.pbufWf,
    h.pbufWithin, h.payloadWritten⟩

section
variable {s : State}

/-- The marker and its length, as R37 bounds them. -/
theorem State.ByteInv.markerLength (h : s.ByteInv) : 1 ≤ s.cfg.n.toNat ∧ s.cfg.n.toNat ≤ 8 := by
  obtain ⟨h1, h8, -, -⟩ := h.configInRange h.valid
  exact ⟨h1, h8⟩

/-- Hunting with a match count below N and an idle frame keeps it, whatever the flags. -/
theorem State.ByteInv.hunt (h : s.ByteInv) {m : BitVec 4} (hm : m.toNat < s.cfg.n.toNat) (o : StickyFlags) :
    State.ByteInv { s with sync := { mode := .hunting, m := m }, frame := Frame.reset, flags := o } where
  valid := h.valid
  paramsLegal := h.paramsLegal
  configInRange hv := by
    obtain ⟨h1, h8, hchan, -⟩ := h.configInRange hv
    exact ⟨h1, h8, hchan, fun _ => hm⟩
  markerPadded := h.markerPadded
  inFrameMatchZero := by simp [State.InFrameMatchZero]
  huntingFrameIdle _ := rfl
  frameFits := by simp
  pbufWf := h.pbufWf
  pbufWithin := h.pbufWithin
  payloadWritten := by simp [Frame.reset]

/-- A frame that fits its phase and has every counted payload byte written keeps it. -/
theorem State.ByteInv.inFrame (h : s.ByteInv) {f : Frame} (hf : f.Fits s.params s.cfg)
    (hw : ∀ i, i < f.rxCount.toNat → (s.pbufByte i).isSome = true) :
    State.ByteInv { s with sync := { mode := .inFrame, m := 0 }, frame := f } where
  valid := h.valid
  paramsLegal := h.paramsLegal
  configInRange hv := by
    obtain ⟨h1, h8, hchan, -⟩ := h.configInRange hv
    exact ⟨h1, h8, hchan, by simp⟩
  markerPadded := h.markerPadded
  inFrameMatchZero _ := rfl
  huntingFrameIdle := by simp [State.HuntingFrameIdle]
  frameFits _ := hf
  pbufWf := h.pbufWf
  pbufWithin := h.pbufWithin
  payloadWritten := hw

/-- So does the next frame of an engine that is IN_FRAME already. -/
theorem State.ByteInv.withFrame (h : s.ByteInv) (hm : s.sync.mode = .inFrame) {f : Frame} (hf : f.Fits s.params s.cfg)
    (hw : ∀ i, i < f.rxCount.toNat → (s.pbufByte i).isSome = true) : State.ByteInv { s with frame := f } := by
  have hs : s.sync = { mode := .inFrame, m := 0 } := by
    have h0 := h.inFrameMatchZero hm
    cases hs : s.sync
    simp_all
  have := h.inFrame hf hw
  rwa [← hs] at this

theorem State.ByteInv.endFrame (h : s.ByteInv) : s.endFrame.ByteInv :=
  h.hunt (m := 0) h.markerLength.1 s.flags

theorem State.ByteInv.headerFail (h : s.ByteInv) : s.headerFail.ByteInv :=
  h.hunt (m := 0) h.markerLength.1 _

theorem State.ByteInv.checksumFail (h : s.ByteInv) : s.checksumFail.ByteInv :=
  h.hunt (m := 0) h.markerLength.1 _

theorem State.ByteInv.enterFrame (h : s.ByteInv) : s.enterFrame.ByteInv :=
  (h.inFrame (f := Frame.reset) ⟨rfl, rfl, rfl, rfl⟩ (by simp [Frame.reset])).withRing _

end

/-! ## Varints -/

/-- A byte without bit 7 is at most 127. -/
theorem byte_le_of_bit7 : ∀ b : Byte, ¬ b.getLsbD 7 = true → b.toNat ≤ 127 := by decide

/-- The value of a one-byte varint, and the first part of a two-byte one, has 7 bits (42_varint.md R145, R146). -/
theorem varintDecodeOne_le {b : Byte} {v : Word} (h : varintDecodeOne b = some v) : v.toNat ≤ 127 := by
  unfold varintDecodeOne at h
  split at h
  · cases h
  · next hb =>
    cases h
    have := byte_le_of_bit7 b hb
    rw [BitVec.toNat_setWidth]
    omega

theorem varintDecodeTwoFirst_le {b : Byte} {v : Word} (h : varintDecodeTwoFirst b = some v) : v.toNat ≤ 127 :=
  varintDecodeOne_le h

/-- A completed two-byte varint fits form TWO (42_varint.md R146, R147). -/
theorem varintDecodeTwoSecond_fits {p v : Word} {b : Byte} (hp : p.toNat ≤ 127) (h : varintDecodeTwoSecond p b = some v) :
    fitsForm .two v := by
  unfold varintDecodeTwoSecond at h
  split at h
  · cases h
  · next hb =>
    cases h
    have hlt := b.isLt
    have hpos : b.toNat ≠ 0 := fun h0 => hb (BitVec.eq_of_toNat_eq h0)
    have hv : (p + 128#16 * b.setWidth 16).toNat = p.toNat + 128 * b.toNat := by
      simp only [BitVec.toNat_add, BitVec.toNat_mul, BitVec.toNat_ofNat, BitVec.toNat_setWidth]
      omega
    unfold fitsForm
    omega

/-! ## The phase handlers keep the invariant -/

section
variable {s t : State} {b : Byte}

/-- LenDone (45_decoder.md R185) on a length that fits its form. -/
theorem State.ByteInv.lenDone (h : s.ByteInv) (hm : s.sync.mode = .inFrame) {v : Word} (hv : fitsForm s.cfg.lenForm v)
    (ht : s.frame.rxType = 0) (hx : s.frame.rxCsx = 0) (hc : s.frame.rxCount = 0) :
    ({ s with frame := { s.frame with rxLen := v } } : State).lenDone.ByteInv := by
  unfold State.lenDone
  split
  · exact h.headerFail
  · next hmax =>
    exact h.withFrame hm (f := { s.frame with rxLen := v, phase := .typeB0 })
      ⟨⟨Nat.le_of_not_lt hmax, hv⟩, ht, hx, hc⟩ h.payloadWritten

/-- TypeDone (45_decoder.md R188) on a type that fits its form. -/
theorem State.ByteInv.typeDone (h : s.ByteInv) (hm : s.sync.mode = .inFrame) {v : Word}
    (hl : s.frame.LenFits s.params s.cfg) (hv : fitsForm s.cfg.typeForm v) (hx : s.frame.rxCsx = 0) (hc : s.frame.rxCount = 0)
    (hd : ({ s with frame := { s.frame with rxType := v } } : State).typeDone = .ok t) : t.ByteInv := by
  unfold State.typeDone at hd
  split at hd
  · obtain ⟨p, -, rfl⟩ := State.deliver_eq_ok.1 hd
    exact (h.emit _).endFrame
  · next hne =>
    cases hd
    have hpos : 1 ≤ s.frame.rxLen.toNat := Nat.pos_of_ne_zero fun h0 => hne (BitVec.eq_of_toNat_eq h0)
    exact h.withFrame hm (f := { s.frame with rxType := v, phase := .csB0 }) ⟨hl, hpos, hv, hx, hc⟩ h.payloadWritten

theorem State.ByteInv.stepLenB0 (h : s.ByteInv) (hm : s.sync.mode = .inFrame) (hp : s.frame.phase = .lenB0) :
    (s.stepLenB0 b).ByteInv := by
  have hf := h.frameFits hm
  simp only [Frame.Fits, hp] at hf
  obtain ⟨-, ht, hx, hc⟩ := hf
  unfold State.stepLenB0
  split
  · next hform =>
    split
    · exact h.headerFail
    · next v hv => exact h.lenDone hm (by rw [hform]; exact varintDecodeOne_le hv) ht hx hc
  · next hform =>
    split
    · exact h.headerFail
    · next v hv =>
      exact h.withFrame hm (f := { s.frame with rxLen := v, phase := .lenB1 })
        ⟨hform, varintDecodeTwoFirst_le hv, ht, hx, hc⟩ h.payloadWritten

theorem State.ByteInv.stepLenB1 (h : s.ByteInv) (hm : s.sync.mode = .inFrame) (hp : s.frame.phase = .lenB1) :
    (s.stepLenB1 b).ByteInv := by
  have hf := h.frameFits hm
  simp only [Frame.Fits, hp] at hf
  obtain ⟨hform, hl, ht, hx, hc⟩ := hf
  unfold State.stepLenB1
  split
  · exact h.headerFail
  · next v hv => exact h.lenDone hm (by rw [hform]; exact varintDecodeTwoSecond_fits hl hv) ht hx hc

theorem State.ByteInv.stepTypeB0 (h : s.ByteInv) (hm : s.sync.mode = .inFrame) (hp : s.frame.phase = .typeB0)
    (hd : s.stepTypeB0 b = .ok t) : t.ByteInv := by
  have hf := h.frameFits hm
  simp only [Frame.Fits, hp] at hf
  obtain ⟨hl, -, hx, hc⟩ := hf
  unfold State.stepTypeB0 at hd
  split at hd
  · next hform =>
    split at hd
    · cases hd; exact h.headerFail
    · next v hv => exact h.typeDone hm hl (by rw [hform]; exact varintDecodeOne_le hv) hx hc hd
  · next hform =>
    split at hd
    · cases hd; exact h.headerFail
    · next v hv =>
      cases hd
      exact h.withFrame hm (f := { s.frame with rxType := v, phase := .typeB1 })
        ⟨hform, hl, varintDecodeTwoFirst_le hv, hx, hc⟩ h.payloadWritten

theorem State.ByteInv.stepTypeB1 (h : s.ByteInv) (hm : s.sync.mode = .inFrame) (hp : s.frame.phase = .typeB1)
    (hd : s.stepTypeB1 b = .ok t) : t.ByteInv := by
  have hf := h.frameFits hm
  simp only [Frame.Fits, hp] at hf
  obtain ⟨hform, hl, ht, hx, hc⟩ := hf
  unfold State.stepTypeB1 at hd
  split at hd
  · cases hd; exact h.headerFail
  · next v hv => exact h.typeDone hm hl (by rw [hform]; exact varintDecodeTwoSecond_fits ht hv) hx hc hd

/-- The checksum field has one byte exactly for payloads of 1 to 31 bytes (43_checksum.md R161). -/
theorem csWidth_eq_one_iff {n : Nat} : csWidth n = 1 ↔ 1 ≤ n ∧ n < 32 := by
  unfold csWidth csWideLimit
  split
  · omega
  · split <;> omega

theorem State.ByteInv.stepCsB0 (h : s.ByteInv) (hm : s.sync.mode = .inFrame) (hp : s.frame.phase = .csB0) :
    (s.stepCsB0 b).ByteInv := by
  have hf := h.frameFits hm
  simp only [Frame.Fits, hp] at hf
  obtain ⟨hl, hpos, ht, -, hc⟩ := hf
  have hb : (b.setWidth 16).toNat ≤ 255 := by
    have := b.isLt
    rw [BitVec.toNat_setWidth]; omega
  refine h.withFrame hm (f := { s.frame with rxCsx := b.setWidth 16, phase := _ }) ?_ h.payloadWritten
  split
  · exact ⟨hl, by simp [hc]; omega, ht, fun _ => hb⟩
  · next hw =>
    rw [csWidth_eq_one_iff] at hw
    exact ⟨hl, by show 32 ≤ s.frame.rxLen.toNat; omega, ht, hb, hc⟩

theorem State.ByteInv.stepCsB1 (h : s.ByteInv) (hm : s.sync.mode = .inFrame) (hp : s.frame.phase = .csB1) :
    (s.stepCsB1 b).ByteInv := by
  have hf := h.frameFits hm
  simp only [Frame.Fits, hp] at hf
  obtain ⟨hl, hwide, ht, -, hc⟩ := hf
  refine h.withFrame hm (f := { s.frame with rxCsx := _, phase := .payload }) ⟨hl, ?_, ht, fun hn => ?_⟩ h.payloadWritten
  · simp [hc]; omega
  · exact absurd hn (Nat.not_lt.2 hwide)

/-- A byte written to the payload store keeps it. -/
theorem State.ByteInv.writePbuf (h : s.ByteInv) {a : Nat} (ha : a < s.params.maxPayload) (b : Byte) :
    State.ByteInv { s with pbuf := s.pbuf.write a b } := by
  refine ⟨h.valid, h.paramsLegal, h.configInRange, h.markerPadded, h.inFrameMatchZero, h.huntingFrameIdle, h.frameFits,
    Memory.wf_write h.pbufWf a b, Memory.within_write h.pbufWithin ha b, fun i hi => ?_⟩
  by_cases he : i = a
  · simp [he, Memory.read_write_same]
  · simpa [Memory.read_write_other _ _ _ _ he] using h.payloadWritten i hi

theorem State.ByteInv.stepPayload (h : s.ByteInv) (hm : s.sync.mode = .inFrame) (hp : s.frame.phase = .payload)
    (hd : s.stepPayload b = .ok t) : t.ByteInv := by
  have hf := h.frameFits hm
  simp only [Frame.Fits, hp] at hf
  obtain ⟨hl, hcount, ht, hx⟩ := hf
  rw [State.stepPayload_eq] at hd
  split at hd
  · next hmax =>
    have hw := h.writePbuf hmax b
    split at hd
    · obtain ⟨p, -, rfl⟩ := State.complete_eq_ok.1 hd
      split
      · exact (hw.emit _).endFrame
      · exact hw.checksumFail
    · next hne =>
      cases hd
      have hlt := s.frame.rxLen.isLt
      have hsucc : (s.frame.rxCount + 1).toNat = s.frame.rxCount.toNat + 1 := by
        rw [BitVec.toNat_add]
        exact Nat.mod_eq_of_lt (show s.frame.rxCount.toNat + 1 < 2 ^ 16 by omega)
      have hmore : (s.frame.rxCount + 1).toNat ≠ s.frame.rxLen.toNat := fun he => hne (BitVec.eq_of_toNat_eq he)
      refine hw.withFrame hm (f := { s.frame with rxCount := s.frame.rxCount + 1 }) ?_ fun i hi => ?_
      · simp only [Frame.Fits, hp]
        exact ⟨hl, by omega, ht, hx⟩
      · by_cases he : i = s.frame.rxCount.toNat
        · simp [he, Memory.read_write_same]
        · exact hw.payloadWritten i (show i < s.frame.rxCount.toNat by
            have : i < (s.frame.rxCount + 1).toNat := hi
            omega)
  · cases hd

theorem State.ByteInv.decodeStep (h : s.ByteInv) (hm : s.sync.mode = .inFrame) (hd : s.decodeStep b = .ok t) :
    t.ByteInv := by
  unfold State.decodeStep at hd
  cases hp : s.frame.phase <;> simp only [hp] at hd
  case lenB0 => cases hd; exact h.stepLenB0 hm hp
  case lenB1 => cases hd; exact h.stepLenB1 hm hp
  case typeB0 => exact h.stepTypeB0 hm hp hd
  case typeB1 => exact h.stepTypeB1 hm hp hd
  case csB0 => cases hd; exact h.stepCsB0 hm hp
  case csB1 => cases hd; exact h.stepCsB1 hm hp
  case payload => exact h.stepPayload hm hp hd

/-- The match count never passes the marker's length (41_synchronizer.md R122). -/
theorem nextMatch_le {m n : BitVec 4} {expected first b : Byte} (hm : m.toNat < n.toNat) :
    (nextMatch m expected first b).toNat ≤ n.toNat := by
  unfold nextMatch
  split
  · rw [BitVec.toNat_add]
    exact (Nat.mod_le _ _).trans hm
  · split
    · exact Nat.one_le_of_lt hm
    · exact Nat.zero_le _

theorem State.ByteInv.syncStep (h : s.ByteInv) (hm : s.sync.mode = .hunting) (hs : s.syncStep b = .ok t) : t.ByteInv := by
  obtain ⟨e, -, rfl⟩ := State.syncStep_eq_ok.1 hs
  split
  · exact h.enterFrame
  · next hne =>
    obtain ⟨-, -, -, hlt⟩ := h.configInRange h.valid
    have hle := nextMatch_le (expected := e) (first := s.cfg.marker[0]) (b := b) (hlt hm)
    have hne' := fun he => hne (BitVec.eq_of_toNat_eq he)
    have := h.hunt (Nat.lt_of_le_of_ne hle hne') s.flags
    rwa [← h.huntingFrameIdle hm, ← hm] at this

/-- Every received byte keeps the invariant between bytes. -/
theorem State.ByteInv.processByte (h : s.ByteInv) (hp : s.processByte b = .ok t) : t.ByteInv := by
  unfold State.processByte at hp
  split at hp
  · next hm => exact h.syncStep hm hp
  · next hm => exact h.decodeStep hm hp

end

end Sys2Proof.Machine
end

section
/-! The invariant of the whole machine: it holds after reset, every step keeps it, and so it holds of every state a host
can bring about. -/

namespace Sys2Proof.Machine

/-! ## At reset, and what does not touch it -/

/-- The invariant holds after reset (10_state.md R42), for every legal parameter record (00_scope.md R9). -/
theorem inv_initial {p : Params} (hp : p.legal) : (State.initial p).Inv where
  paramsLegal := hp
  unconfiguredAtReset _ := ⟨rfl, rfl, rfl, rfl, rfl⟩
  configInRange hv := nomatch hv
  inFrameMatchZero hm := nomatch hm
  huntingFrameIdle _ := rfl
  frameShape hm := nomatch hm
  ringDrained := State.ringCount_eq_zero_of_eq rfl
  cursorsInRange := by
    obtain ⟨⟨hc, -⟩, -, -⟩ := hp
    exact ⟨Nat.lt_of_lt_of_le Nat.two_pos hc, Nat.lt_of_lt_of_le Nat.two_pos hc⟩
  ringWf := List.Pairwise.nil
  ringWithin := by simp [State.initial, State.reset, RingBuffer.reset, Memory.within]
  pbufWf := List.Pairwise.nil
  pbufWithin := by simp [State.initial, State.reset, Memory.within]
  markerPadded i hi _ := by
    change ChannelConfig.reset.marker[i] = 0
    interval_cases i <;> rfl
  fieldsAsReceived hm := nomatch hm
  payloadWritten i hi := by simp [State.initial, State.reset, Frame.reset] at hi

section
variable {s : State}

/-- The ports are no part of the invariant (10_state.md R30). -/
theorem State.Inv.withPorts (h : s.Inv) (cmdIn : List Byte) (resetLine : Bool) (outputs : List PortEvent) :
    State.Inv { s with cmdIn := cmdIn, resetLine := resetLine, outputs := outputs } :=
  ⟨h.paramsLegal, h.unconfiguredAtReset, h.configInRange, h.inFrameMatchZero, h.huntingFrameIdle, h.frameShape,
    h.ringDrained, h.cursorsInRange, h.ringWf, h.ringWithin, h.pbufWf, h.pbufWithin, h.markerPadded, h.fieldsAsReceived,
    h.payloadWritten⟩

theorem State.Inv.respond (h : s.Inv) (c : ResponseCode) : (s.respond c).Inv := h.withPorts _ _ _

theorem State.Inv.consumeTo (h : s.Inv) (rest : List Byte) : (s.consumeTo rest).Inv := h.withPorts _ _ _

/-- Flags keep it where they are clear or the engine is configured (10_state.md R36). -/
theorem State.Inv.withFlags (h : s.Inv) {o : StickyFlags} (ho : s.cfg.valid = false → o = StickyFlags.reset) :
    (s.withFlags o).Inv where
  __ := h
  unconfiguredAtReset hv := by
    obtain ⟨hc, hs, hf, -, hr⟩ := h.unconfiguredAtReset hv
    exact ⟨hc, hs, hf, ho hv, hr⟩

theorem State.Inv.clearFlags (h : s.Inv) : s.clearFlags.Inv := h.withFlags fun _ => rfl

theorem State.Inv.hardReset (h : s.Inv) : s.hardReset.Inv := (inv_initial h.paramsLegal).withPorts _ _ _

theorem State.Inv.capacity_pos (h : s.Inv) : 0 < s.params.ringCapacity := by
  obtain ⟨⟨hc, -⟩, -, -⟩ := h.paramsLegal
  omega

/-- ChannelReset keeps it, configured or not (41_synchronizer.md R128). -/
theorem State.Inv.channelReset (h : s.Inv) : s.channelReset.Inv where
  paramsLegal := h.paramsLegal
  unconfiguredAtReset hv := by
    obtain ⟨hc, -, -, hf, -⟩ := h.unconfiguredAtReset hv
    exact ⟨hc, rfl, rfl, hf, rfl⟩
  configInRange hv := by
    obtain ⟨h1, h8, hchan, -⟩ := h.configInRange hv
    exact ⟨h1, h8, hchan, fun _ => h1⟩
  inFrameMatchZero _ := rfl
  huntingFrameIdle _ := rfl
  frameShape hm := nomatch hm
  ringDrained := State.ringCount_eq_zero_of_eq rfl
  cursorsInRange := ⟨h.capacity_pos, h.capacity_pos⟩
  ringWf := h.ringWf
  ringWithin := h.ringWithin
  pbufWf := h.pbufWf
  pbufWithin := h.pbufWithin
  markerPadded := h.markerPadded
  fieldsAsReceived hm := nomatch hm
  payloadWritten i hi := by simp at hi

/-- What CONFIGURE accepts (46_commands.md R204). -/
theorem configLegal_iff {p : Params} {chan : Byte} {rsv : BitVec 2} {mk : List Byte} :
    configLegal p chan rsv mk = true ↔ chan.toNat < p.numChannels ∧ 1 ≤ mk.length ∧ mk.length ≤ 8 ∧ rsv = 0#2 := by
  simp [configLegal, and_assoc, Nat.one_le_iff_ne_zero]

/-- The marker CONFIGURE stores is 0 from its length on (46_commands.md R204). -/
theorem padMarker_eq_zero {mk : List Byte} {i : Nat} (h : i < 8) (hi : mk.length ≤ i) : (padMarker mk)[i] = 0 := by
  have hget : (padMarker mk)[i] = mk.getD i 0 := by
    unfold padMarker
    interval_cases i <;> rfl
  rw [hget, List.getD_eq_default _ _ hi]

/-- A legal configuration written to an unconfigured engine keeps it. -/
theorem State.Inv.configured (h : s.Inv) (hv : s.cfg.valid = false) {chan : Byte} {lf tf : Form} {rsv : BitVec 2}
    {mk : List Byte} (hl : configLegal s.params chan rsv mk = true) :
    State.Inv { s with cfg := configOf chan lf tf mk } := by
  obtain ⟨hchan, h1, h8, -⟩ := configLegal_iff.1 hl
  obtain ⟨-, hsync, hframe, -, -⟩ := h.unconfiguredAtReset hv
  have hn : (configOf chan lf tf mk).n.toNat = mk.length := by
    simp only [configOf, BitVec.toNat_ofNat]; omega
  have hm : s.sync.mode ≠ .inFrame := by simp [hsync, Synchronizer.reset]
  exact
    { h with
      unconfiguredAtReset := fun hv => nomatch hv
      configInRange := fun _ => ⟨hn ▸ h1, hn ▸ h8, hchan, fun _ => by
        show s.sync.m.toNat < _
        rw [hn, hsync]; exact h1⟩
      frameShape := fun hm' => absurd hm' hm
      markerPadded := fun i hi hni => padMarker_eq_zero hi (hn ▸ hni)
      fieldsAsReceived := fun hm' => absurd hm' hm }

/-! ## RECEIVE -/

/-- A drained ring has equal cursors in range and its store as it was. -/
theorem RingBuffer.drained_cursors {r : RingBuffer} {locked : Bool} {c : Nat} (hc : r.wr < c) :
    (r.drained locked).rd = (r.drained locked).wr ∧ (r.drained locked).wr < c ∧ (r.drained locked).store = r.store := by
  cases locked with
  | true => exact ⟨rfl, Nat.zero_lt_of_lt hc, rfl⟩
  | false => exact ⟨rfl, hc, rfl⟩

/-- RECEIVE keeps the invariant: an overflow by ChannelReset, a burst that fits byte by byte. -/
theorem State.Inv.execReceive {t : State} {data : List Byte} (h : s.Inv) (ht : execReceive data s = .next t) : t.Inv := by
  cases hv : s.cfg.valid with
  | false =>
    have hr : Machine.execReceive data s = .next (s.respond .notConfigured) := execReceive_eq_next.2 (.inl ⟨hv, rfl⟩)
    cases ht.symm.trans hr
    exact h.respond _
  | true =>
    by_cases hl : data.length < s.params.ringCapacity
    · obtain ⟨hrd, hwr⟩ := h.cursorsInRange
      obtain ⟨a, locked, ha, rfl⟩ := (execReceive_eq_next_absorb hv h.ringDrained hrd hwr hl).1 ht
      have hbyte : a.ByteInv := absorb_keeps (fun _ _ _ hs hp => State.ByteInv.processByte hs hp) (h.byteInv hv) ha
      have hparams : a.params = s.params :=
        absorb_keeps (P := fun u => u.params = s.params) (fun _ _ _ hs hp => (byteFrame_processByte hp).1.params.trans hs)
          rfl ha
      obtain ⟨heq, hlt, hstore⟩ := RingBuffer.drained_cursors (r := s.writtenRing data) (locked := locked)
        (c := a.params.ringCapacity) (by rw [hparams]; exact Nat.mod_lt _ h.capacity_pos)
      have hwf : Memory.wf ((s.writtenRing data).drained locked).store := by
        rw [hstore]
        exact storeBurst_wf _ _ _ h.ringWf
      have hin : Memory.within a.params.ringCapacity ((s.writtenRing data).drained locked).store := by
        rw [hstore, hparams]
        exact storeBurst_within h.capacity_pos _ _ h.ringWithin
      exact ((hbyte.withRing _).inv (State.ringCount_eq_zero_of_eq heq) ⟨heq ▸ hlt, hlt⟩ hwf hin).respond _
    · cases ht.symm.trans (execReceive_overflow hv h.ringDrained (Nat.le_of_not_lt hl) h.capacity_pos)
      exact (h.channelReset.withFlags (o := { s.flags with ovf := true }) fun hf => by simp [hv] at hf).respond _

/-! ## Commands and steps -/

/-- Every command keeps the invariant. -/
theorem State.Inv.exec {i : Instr} {t : State} (h : s.Inv) (ht : exec i s = .next t) : t.Inv := by
  by_cases hi : ∃ data, i = .receive data
  · obtain ⟨data, rfl⟩ := hi
    exact h.execReceive ht
  · rcases exec_eq_next_cases (fun data hd => hi ⟨data, hd⟩) ht with
      ⟨es, rfl⟩ | ⟨-, rfl⟩ | ⟨-, -, rfl⟩ | ⟨_, _, _, _, _, -, hv, hl, rfl⟩
    · exact h.withPorts _ _ _
    · exact h.clearFlags.respond _
    · exact h.channelReset.respond _
    · exact (h.configured hv hl).channelReset.clearFlags.respond _

/-- Every step keeps the invariant. -/
theorem State.Inv.step {t : State} (h : s.Inv) (ht : step s = .next t) : t.Inv := by
  rcases step_eq_next.1 ht with ⟨-, rfl⟩ | ⟨-, ⟨-, rfl⟩ | ⟨op, rest, -, rfl⟩ | ⟨i, rest, -, hi⟩⟩
  · exact h.hardReset
  · exact h
  · exact (h.consumeTo rest).respond _
  · exact (h.consumeTo rest).exec hi

end

/-- Every state a host can bring about meets the invariant: the host's own moves change the ports only. -/
theorem Reachable.inv {s : State} (h : Reachable s) : s.Inv := by
  induction h with
  | initial p legal => exact inv_initial legal
  | step _ stepped ih => exact ih.step stepped
  | issue _ bytes ih => exact ih.withPorts _ _ _
  | assertReset _ ih => exact ih.withPorts _ _ _

/-- Settles O50, for this hardware's parameters and for every legal record. -/
theorem invariantHoldsAtReset : Obligations.InvariantHoldsAtReset :=
  ⟨inv_initial (p := Params.thisHardware) (by decide), fun _ => inv_initial⟩

/-- Settles O51: each command keeps the invariant, RECEIVE byte by byte. -/
theorem stepKeepsTheInvariant : Obligations.StepKeepsTheInvariant :=
  fun _ _ => State.Inv.step

/-- Settles O53, as the part of the invariant that 10_state.md names. -/
theorem reachableStatesMeetTheRules : Obligations.ReachableStatesMeetTheRules := by
  intro s h
  have hs := h.inv
  exact ⟨hs.unconfiguredAtReset, hs.configInRange, hs.inFrameMatchZero, hs.huntingFrameIdle, hs.frameShape, hs.ringDrained⟩

end Sys2Proof.Machine
end

section
/-! What no command can tell apart: engines that differ in dead state only (10_state.md R44, R45). Commands other than
RECEIVE answer alike on alike engines; RECEIVE does between commands, where it absorbs its burst. -/

namespace Sys2Proof.Machine

/-! ## Commands other than RECEIVE -/

section
variable {s u : State}

theorem Alike.emit (h : Alike s u) (e : PortEvent) : StaysAlike s u (s.emit e) (u.emit e) :=
  ⟨⟨h.params, h.cfg, h.sync, h.frame, h.cmdIn, h.resetLine, by simp [h.outputs], h.payload⟩, id, id, id⟩

theorem Alike.respond (h : Alike s u) (c : ResponseCode) : StaysAlike s u (s.respond c) (u.respond c) := h.emit _

theorem Alike.channelReset (h : Alike s u) : StaysAlike s u s.channelReset u.channelReset :=
  ⟨⟨h.params, h.cfg, rfl, rfl, h.cmdIn, h.resetLine, h.outputs, by simp⟩, id, id, fun e => by simp [e]⟩

theorem Alike.clearFlags (h : Alike s u) : StaysAlike s u s.clearFlags u.clearFlags :=
  ⟨⟨h.params, h.cfg, h.sync, h.frame, h.cmdIn, h.resetLine, h.outputs, h.payload⟩, fun _ => rfl, id, id⟩

theorem Alike.setOvf (h : Alike s u) : StaysAlike s u s.setOvf u.setOvf :=
  ⟨⟨h.params, h.cfg, h.sync, h.frame, h.cmdIn, h.resetLine, h.outputs, h.payload⟩, fun e => by simp [e], id, id⟩

theorem Alike.withCfg (h : Alike s u) (c : ChannelConfig) : StaysAlike s u { s with cfg := c } { u with cfg := c } :=
  ⟨⟨h.params, rfl, h.sync, h.frame, h.cmdIn, h.resetLine, h.outputs, h.payload⟩, id, id, id⟩

theorem Alike.consumeTo (h : Alike s u) (rest : List Byte) : StaysAlike s u (s.consumeTo rest) (u.consumeTo rest) :=
  ⟨⟨h.params, h.cfg, h.sync, h.frame, rfl, h.resetLine, h.outputs, h.payload⟩, id, id, id⟩

/-- Where `u` reads the register a READ_REG names as `s` does, a command other than RECEIVE does to `u` as to `s`. -/
theorem Alike.exec {i : Instr} {t : State} (h : Alike s u) (hi : ∀ data, i ≠ .receive data)
    (hreg : ∀ n r, i = .readReg n → RegName.ofNumber n = some r → u.regValue r = s.regValue r)
    (ht : exec i s = .next t) : ∃ v, Machine.exec i u = .next v ∧ StaysAlike s u t v := by
  cases i with
  | receive data => exact absurd rfl (hi data)
  | configure chan lf tf rsv mk =>
    rcases execConfigure_eq_next.1 ht with ⟨hv, rfl⟩ | ⟨hv, hl, rfl⟩ | ⟨hv, hl, rfl⟩
    · exact ⟨_, execConfigure_eq_next.2 (.inl ⟨h.cfg ▸ hv, rfl⟩), h.respond _⟩
    · exact ⟨_, execConfigure_eq_next.2 (.inr (.inl ⟨h.cfg ▸ hv, h.params ▸ hl, rfl⟩)), h.respond _⟩
    · have h1 := h.withCfg (configOf chan lf tf mk)
      have h2 := h1.trans h1.alike.channelReset
      have h3 := h2.trans h2.alike.clearFlags
      exact ⟨_, execConfigure_eq_next.2 (.inr (.inr ⟨h.cfg ▸ hv, h.params ▸ hl, rfl⟩)), h3.trans (h3.alike.respond _)⟩
  | send type payload =>
    rcases execSend_eq_next.1 ht with ⟨hv, rfl⟩ | ⟨hv, he, rfl⟩ | ⟨hv, frame, he, rfl⟩
    · exact ⟨_, execSend_eq_next.2 (.inl ⟨h.cfg ▸ hv, rfl⟩), h.respond _⟩
    · exact ⟨_, execSend_eq_next.2 (.inr (.inl ⟨h.cfg ▸ hv, h.cfg ▸ he, rfl⟩)), h.respond _⟩
    · have h1 := h.emit (.tx frame)
      exact ⟨_, execSend_eq_next.2 (.inr (.inr ⟨h.cfg ▸ hv, frame, h.cfg ▸ he, rfl⟩)), h1.trans (h1.alike.respond _)⟩
  | resync =>
    rcases execResync_eq_next.1 ht with ⟨hv, rfl⟩ | ⟨hv, rfl⟩
    · exact ⟨_, execResync_eq_next.2 (.inl ⟨h.cfg ▸ hv, rfl⟩), h.respond _⟩
    · have h1 := h.channelReset
      exact ⟨_, execResync_eq_next.2 (.inr ⟨h.cfg ▸ hv, rfl⟩), h1.trans (h1.alike.respond _)⟩
  | readReg n =>
    rcases execReadReg_eq_next.1 ht with ⟨hn, rfl⟩ | ⟨r, hn, rfl⟩
    · exact ⟨_, execReadReg_eq_next.2 (.inl ⟨hn, rfl⟩), h.respond _⟩
    · exact ⟨_, execReadReg_eq_next.2 (.inr ⟨r, hn, rfl⟩), hreg n r rfl hn ▸ h.emit _⟩
  | clearStatus =>
    cases execClearStatus_eq_next.1 ht
    have h1 := h.clearFlags
    exact ⟨_, execClearStatus_eq_next.2 rfl, h1.trans (h1.alike.respond _)⟩

end

/-! ## Dead state -/

section
variable {s u t : State}

/-- Engines that differ in dead state only are alike, with equal flags. -/
theorem sameVisible_iff : SameVisible s u ↔ Alike s u ∧ u.flags = s.flags := by
  constructor
  · intro h
    exact ⟨⟨h.params.symm, h.cfg.symm, h.sync.symm, h.frame.symm, h.cmdIn.symm, h.resetLine.symm, h.outputs.symm,
      fun i hi => (h.payload i hi).symm⟩, h.flags.symm⟩
  · rintro ⟨h, hf⟩
    exact ⟨h.params.symm, h.cfg.symm, h.sync.symm, h.frame.symm, hf.symm, h.cmdIn.symm, h.resetLine.symm,
      h.outputs.symm, fun i hi => (h.payload i hi).symm⟩

theorem StaysAlike.sameVisible {v : State} (h : StaysAlike s u t v) (hf : u.flags = s.flags) : SameVisible t v :=
  sameVisible_iff.2 ⟨h.alike, h.flags hf⟩

/-- Between commands no register shows dead state: RING_COUNT reads 0. -/
theorem Alike.regValue (h : Alike s u) (hf : u.flags = s.flags) (hs : s.RingDrained) (hu : u.RingDrained) (r : RegName) :
    u.regValue r = s.regValue r := by
  have hs : s.ringCount = 0 := hs
  have hu : u.ringCount = 0 := hu
  cases r <;>
    simp [State.regValue, State.statusWord, State.configWord, h.params, h.cfg, h.sync, h.frame, hf, hs, hu]

theorem Alike.withRings (h : Alike s u) (r r' : RingBuffer) : Alike (s.withRing r) (u.withRing r') :=
  ⟨h.params, h.cfg, h.sync, h.frame, h.cmdIn, h.resetLine, h.outputs, h.payload⟩

/-- RECEIVE between commands answers alike on alike engines. -/
theorem Alike.execReceive {data : List Byte} (h : Alike s u) (hs : s.Inv) (hu : u.Inv)
    (ht : execReceive data s = .next t) : ∃ v, execReceive data u = .next v ∧ StaysAlike s u t v := by
  cases hv : s.cfg.valid with
  | false =>
    have hr : Machine.execReceive data s = .next (s.respond .notConfigured) := execReceive_eq_next.2 (.inl ⟨hv, rfl⟩)
    cases ht.symm.trans hr
    exact ⟨_, execReceive_eq_next.2 (.inl ⟨h.cfg ▸ hv, rfl⟩), h.respond _⟩
  | true =>
    have hvu : u.cfg.valid = true := h.cfg ▸ hv
    by_cases hl : data.length < s.params.ringCapacity
    · obtain ⟨hrd, hwr⟩ := hs.cursorsInRange
      obtain ⟨hrdu, hwru⟩ := hu.cursorsInRange
      obtain ⟨a, locked, ha, rfl⟩ := (execReceive_eq_next_absorb hv hs.ringDrained hrd hwr hl).1 ht
      obtain ⟨b, hb, hab⟩ := h.absorb ha
      have h1 : StaysAlike s u (a.withRing ((s.writtenRing data).drained locked))
          (b.withRing ((u.writtenRing data).drained locked)) :=
        ⟨hab.alike.withRings _ _, hab.flags, hab.pbuf, fun e => by simp [State.writtenRing, e, h.params]⟩
      exact ⟨_, (execReceive_eq_next_absorb hvu hu.ringDrained hrdu hwru (h.params ▸ hl)).2 ⟨b, locked, hb, rfl⟩,
        h1.trans (h1.alike.respond _)⟩
    · have hle := Nat.le_of_not_lt hl
      cases ht.symm.trans (execReceive_overflow hv hs.ringDrained hle hs.capacity_pos)
      have h1 := h.channelReset
      have h2 := h1.trans h1.alike.setOvf
      exact ⟨_, execReceive_overflow hvu hu.ringDrained (h.params ▸ hle) hu.capacity_pos, h2.trans (h2.alike.respond _)⟩

/-- Every command answers alike between commands, on engines that differ in dead state only. -/
theorem SameVisible.exec {i : Instr} (h : SameVisible s u) (hs : s.Inv) (hu : u.Inv) (ht : exec i s = .next t) :
    ∃ v, Machine.exec i u = .next v ∧ SameVisible t v := by
  obtain ⟨ha, hf⟩ := sameVisible_iff.1 h
  have hex : ∃ v, Machine.exec i u = .next v ∧ StaysAlike s u t v := by
    by_cases hi : ∃ data, i = .receive data
    · obtain ⟨data, rfl⟩ := hi
      exact ha.execReceive hs hu ht
    · exact ha.exec (fun data hd => hi ⟨data, hd⟩) (fun _ r _ _ => ha.regValue hf hs.ringDrained hu.ringDrained r) ht
  obtain ⟨v, hv, hst⟩ := hex
  exact ⟨v, hv, hst.sameVisible hf⟩

/-- A hardware reset leaves no difference but what it does not reset, which is visible. -/
theorem SameVisible.hardReset (h : SameVisible s u) : SameVisible s.hardReset u.hardReset :=
  ⟨h.params, rfl, rfl, rfl, rfl, h.cmdIn, rfl, h.outputs, fun _ _ => rfl⟩

theorem SameVisible.consumeTo (h : SameVisible s u) (rest : List Byte) :
    SameVisible (s.consumeTo rest) (u.consumeTo rest) :=
  ⟨h.params, h.cfg, h.sync, h.frame, h.flags, rfl, h.resetLine, h.outputs, h.payload⟩

theorem SameVisible.respond (h : SameVisible s u) (c : ResponseCode) : SameVisible (s.respond c) (u.respond c) :=
  ⟨h.params, h.cfg, h.sync, h.frame, h.flags, h.cmdIn, h.resetLine, by simp [h.outputs], h.payload⟩

end

/-- Settles O58: what a byte reads is visible, and between commands the ring is empty on both sides, so that RECEIVE absorbs
the same bytes on both. -/
theorem deadStateIsInvisible : Obligations.DeadStateIsInvisible := by
  intro s u t hs hu h ht
  have hfetch : u.fetch = s.fetch := congrArg decode h.cmdIn.symm
  rcases step_eq_next.1 ht with ⟨hr, rfl⟩ | ⟨hr, ⟨hf, rfl⟩ | ⟨op, rest, hf, rfl⟩ | ⟨i, rest, hf, hi⟩⟩
  · exact ⟨_, step_eq_next.2 (.inl ⟨h.resetLine ▸ hr, rfl⟩), h.hardReset⟩
  · exact ⟨u, step_eq_next.2 (.inr ⟨h.resetLine ▸ hr, .inl ⟨hfetch.trans hf, rfl⟩⟩), h⟩
  · exact ⟨_, step_eq_next.2 (.inr ⟨h.resetLine ▸ hr, .inr (.inl ⟨op, rest, hfetch.trans hf, rfl⟩)⟩),
      (h.consumeTo rest).respond _⟩
  · obtain ⟨v, hv, hsame⟩ := (h.consumeTo rest).exec (hs.consumeTo rest) (hu.consumeTo rest) hi
    exact ⟨v, step_eq_next.2 (.inr ⟨h.resetLine ▸ hr, .inr (.inr ⟨i, rest, hfetch.trans hf, hv⟩)⟩), hsame⟩

end Sys2Proof.Machine
end

section
/-! The sticky flags (10_state.md R29, R43): who writes them, and that no command but READ_REG of STATUS reads them. Nothing
is assumed of the state here, so that RECEIVE is followed through its drain loop. -/

namespace Sys2Proof.Machine

section
variable {s t : State}

/-- With other flags, the drain loop does the same to all else. -/
theorem drain_withFlags {k : Nat} (o : StickyFlags) (h : drain k s = .ok t) :
    ∃ o', drain k (s.withFlags o) = .ok (t.withFlags o') := by
  induction k generalizing s o with
  | zero => cases h; exact ⟨o, rfl⟩
  | succ k ih =>
    rcases drain_succ_eq_ok.1 h with ⟨h0, rfl⟩ | ⟨h0, b, s1, s2, h1, h2, h3⟩
    · exact ⟨o, drain_of_empty (s := State.withFlags _ o) h0 _⟩
    · obtain ⟨-, hrd, hread, rfl⟩ := State.ringReadOne_eq_ok.1 h1
      obtain ⟨o2, h2'⟩ := State.processByte_withFlags o h2
      have h1' := (State.ringReadOne_eq_ok (s := s.withFlags o)).2 ⟨h0, hrd, hread, rfl⟩
      obtain ⟨o3, h3'⟩ := ih o2 h3
      exact ⟨o3, drain_succ_eq_ok.2 (.inr ⟨h0, b, _, _, h1', h2', h3'⟩)⟩

/-- With other flags, RECEIVE does the same to all else. -/
theorem execReceive_withFlags {data : List Byte} (o : StickyFlags) (h : execReceive data s = .next t) :
    ∃ o', execReceive data (s.withFlags o) = .next (t.withFlags o') := by
  rcases execReceive_eq_next.1 h with ⟨hv, rfl⟩ | ⟨hv, hw, rfl⟩ | ⟨hv, s1, s2, hw, hd, rfl⟩
  · exact ⟨o, execReceive_eq_next.2 (.inl ⟨hv, rfl⟩)⟩
  · have hw' := (State.ringWrite_eq_none (s := s.withFlags o)).2 (State.ringWrite_eq_none (s := s).1 hw)
    exact ⟨{ o with ovf := true }, execReceive_eq_next.2 (.inr (.inl ⟨hv, hw', rfl⟩))⟩
  · obtain ⟨hfits, rfl⟩ := State.ringWrite_eq_some.1 hw
    obtain ⟨o', hd'⟩ := drain_withFlags o hd
    have hw' := (State.ringWrite_eq_some (s := s.withFlags o)).2 ⟨hfits, rfl⟩
    exact ⟨o', execReceive_eq_next.2 (.inr (.inr ⟨hv, _, _, hw', hd', rfl⟩))⟩

/-- STATUS is register 0, and no other (10_state.md R32). -/
theorem RegName.ofNumber_eq_status : ∀ n : Byte, RegName.ofNumber n = some .status → n = 0 := by decide

/-- STATUS alone shows the flags (10_state.md R33). -/
theorem State.regValue_withFlags {r : RegName} (hr : r ≠ .status) (o : StickyFlags) :
    (s.withFlags o).regValue r = s.regValue r := by
  cases r with
  | status => exact absurd rfl hr
  | _ => rfl

/-- With other flags, a command that does not read STATUS does the same to all else. -/
theorem exec_withFlags {i : Instr} (o : StickyFlags) (hi : i ≠ .readReg 0) (h : exec i s = .next t) :
    ∃ o', exec i (s.withFlags o) = .next (t.withFlags o') := by
  by_cases hr : ∃ data, i = .receive data
  · obtain ⟨data, rfl⟩ := hr
    exact execReceive_withFlags o h
  · have hreg : ∀ n r, i = .readReg n → RegName.ofNumber n = some r → (s.withFlags o).regValue r = s.regValue r := by
      rintro n r rfl hn
      refine State.regValue_withFlags (fun hs => hi ?_) o
      rw [RegName.ofNumber_eq_status n (hs ▸ hn)]
    obtain ⟨v, hv, hst⟩ := (Alike.withFlags s o).exec (fun data hd => hr ⟨data, hd⟩) hreg h
    exact ⟨v.flags, hv.trans (congrArg _ hst.eq_withFlags)⟩

end

/-- Settles O55: RECEIVE's frame, the four ways the other commands change the state, and that only READ_REG of STATUS reads
the flags. -/
theorem flagsAreStickyAndUnread : Obligations.FlagsAreStickyAndUnread := by
  refine ⟨fun s t data h => (execReceive_cfg_flags h).2, fun i s t hi h => ?_, fun i s t o hi h => exec_withFlags o hi h⟩
  rcases exec_eq_next_cases hi h with ⟨es, rfl⟩ | ⟨hc, rfl⟩ | ⟨-, -, rfl⟩ | ⟨chan, lf, tf, rsv, mk, hc, -, -, rfl⟩
  · exact .inl rfl
  · exact .inr ⟨rfl, .inl hc⟩
  · exact .inl rfl
  · exact .inr ⟨rfl, .inr ⟨chan, lf, tf, rsv, mk, hc⟩⟩

end Sys2Proof.Machine
end

section
/-! The register view: the values of STATUS and CONFIG as sums of their fields (10_state.md R33, R34), and the registers
after reset (R42). -/

namespace Sys2Proof.Machine

/-- A field put above `m` bits counts 2^m-fold. -/
theorem toNat_append_eq_add {n m : Nat} (x : BitVec n) (y : BitVec m) : (x ++ y).toNat = x.toNat * 2 ^ m + y.toNat := by
  rw [BitVec.toNat_append, ← Nat.shiftLeft_add_eq_or_of_lt y.isLt, Nat.shiftLeft_eq]

/-- STATUS, field by field (10_state.md R33). -/
theorem State.statusWord_toNat (s : State) : s.statusWord.toNat =
    s.cfg.valid.toNat + 2 * s.sync.mode.bit.toNat + 4 * s.frame.phase.code.toNat + 32 * s.flags.ovf.toNat +
      64 * s.flags.herr.toNat + 128 * s.flags.cerr.toNat + 256 * s.sync.m.toNat := by
  simp only [State.statusWord, toNat_append_eq_add, BitVec.toNat_ofBool, BitVec.toNat_ofNat]
  omega

/-- CONFIG, field by field (10_state.md R34). -/
theorem State.configWord_toNat (s : State) : s.configWord.toNat =
    s.cfg.chanId.toNat + 256 * s.cfg.n.toNat + 4096 * s.cfg.lenForm.bit.toNat + 8192 * s.cfg.typeForm.bit.toNat := by
  simp only [State.configWord, toNat_append_eq_add, BitVec.toNat_ofNat]
  omega

/-- The bit of SYNC reads 1 exactly IN_FRAME (10_state.md R25). -/
theorem syncBit_eq_one_iff (m : SyncMode) : m.bit.toNat = 1 ↔ m = .inFrame := by
  cases m <;> decide

/-- The bit of a form reads 1 exactly for TWO (10_state.md R22). -/
theorem formBit_eq_one_iff (f : Form) : f.bit.toNat = 1 ↔ f = .two := by
  cases f <;> decide

/-- Settles O16: STATUS and CONFIG are sums of fields that do not overlap. -/
theorem statusAndConfigFields : Obligations.StatusAndConfigFields := by
  intro s st cf
  have hst : st = _ := s.statusWord_toNat
  have hcf : cf = _ := s.configWord_toNat
  have hmode := s.sync.mode.bit.isLt
  have hphase := s.frame.phase.code.isLt
  have hm := s.sync.m.isLt
  have hvalid := s.cfg.valid.toNat_le
  have hovf := s.flags.ovf.toNat_le
  have hherr := s.flags.herr.toNat_le
  have hcerr := s.flags.cerr.toNat_le
  have hchan := s.cfg.chanId.isLt
  have hn := s.cfg.n.isLt
  have hlen := s.cfg.lenForm.bit.isLt
  have htype := s.cfg.typeForm.bit.isLt
  rw [← syncBit_eq_one_iff, ← formBit_eq_one_iff, ← formBit_eq_one_iff, ← Bool.toNat_eq_one, ← Bool.toNat_eq_one,
    ← Bool.toNat_eq_one, ← Bool.toNat_eq_one]
  refine ⟨by omega, by omega, ?_, by omega, by omega, by omega, by omega, by omega, by omega, by omega, by omega, by omega,
    by omega⟩
  have hcode : st / 4 % 8 = s.frame.phase.code.toNat := by omega
  rw [hcode]
  cases s.frame.phase <;> rfl

/-- Settles O10, by evaluating the state after reset. -/
theorem resetValues : Obligations.ResetValues := by
  refine ⟨rfl, rfl, rfl, rfl, rfl, rfl, by decide, by decide, fun r hcap hmax => ?_⟩
  cases r with
  | ringCap => exact absurd rfl hcap
  | payloadMax => exact absurd rfl hmax
  | _ => decide

end Sys2Proof.Machine
end

section
/-! What a command adds to the outputs, said once (20_memory.md R64, 46_commands.md R201), and which commands are idempotent
(20_memory.md R60). -/

namespace Sys2Proof.Machine

/-! ## Outputs -/

section
variable {s t : State}

/-- RECEIVE emits packet records, then its response code (46_commands.md R210). -/
theorem execReceive_outputs {data : List Byte} (h : execReceive data s = .next t) :
    ∃ (ps : List Packet) (c : ResponseCode), t.outputs = s.outputs ++ ps.map .packet ++ [.response (.code c)] := by
  rcases execReceive_eq_next.1 h with ⟨-, rfl⟩ | ⟨-, -, rfl⟩ | ⟨-, s1, s2, hw, hd, rfl⟩
  · exact ⟨[], .notConfigured, by simp⟩
  · exact ⟨[], .ok, by simp⟩
  · obtain ⟨-, rfl⟩ := State.ringWrite_eq_some.1 hw
    obtain ⟨ps, hps⟩ := (burstFrame_drain hd).outputs
    exact ⟨ps, .ok, by simp [hps]⟩

/-- Everything a command can add to the outputs: packet records before the code of a RECEIVE, a frame before the OK of a
SEND, the value of a READ_REG, or a response code alone. -/
theorem exec_outputs {i : Instr} (h : exec i s = .next t) :
    (∃ data ps c, i = .receive data ∧ t.outputs = s.outputs ++ List.map .packet ps ++ [.response (.code c)]) ∨
    (∃ type p frame, i = .send type p ∧ t.outputs = s.outputs ++ [.tx frame] ++ [.response (.code .ok)]) ∨
    (∃ n v, i = .readReg n ∧ t.outputs = s.outputs ++ [.response (.value v)]) ∨
    ∃ c, t.outputs = s.outputs ++ [.response (.code c)] := by
  cases i with
  | configure chan lf tf rsv mk =>
    rcases execConfigure_eq_next.1 h with ⟨-, rfl⟩ | ⟨-, -, rfl⟩ | ⟨-, -, rfl⟩ <;> exact .inr (.inr (.inr ⟨_, rfl⟩))
  | receive data =>
    obtain ⟨ps, c, ht⟩ := execReceive_outputs h
    exact .inl ⟨data, ps, c, rfl, ht⟩
  | send type p =>
    rcases execSend_eq_next.1 h with ⟨-, rfl⟩ | ⟨-, -, rfl⟩ | ⟨-, frame, -, rfl⟩
    · exact .inr (.inr (.inr ⟨_, rfl⟩))
    · exact .inr (.inr (.inr ⟨_, rfl⟩))
    · exact .inr (.inl ⟨type, p, frame, rfl, rfl⟩)
  | resync => rcases execResync_eq_next.1 h with ⟨-, rfl⟩ | ⟨-, rfl⟩ <;> exact .inr (.inr (.inr ⟨_, rfl⟩))
  | readReg n =>
    rcases execReadReg_eq_next.1 h with ⟨-, rfl⟩ | ⟨r, -, rfl⟩
    · exact .inr (.inr (.inr ⟨_, rfl⟩))
    · exact .inr (.inr (.inl ⟨n, _, rfl, rfl⟩))
  | clearStatus =>
    cases execClearStatus_eq_next.1 h
    exact .inr (.inr (.inr ⟨_, rfl⟩))

end

/-- Settles O24, by what each command can add to the outputs. -/
theorem oneResponseLast : Obligations.OneResponseLast := by
  intro i s t h
  rcases exec_outputs h with ⟨data, ps, c, rfl, ht⟩ | ⟨type, p, frame, rfl, ht⟩ | ⟨n, v, rfl, ht⟩ | ⟨c, ht⟩
  · refine ⟨ps.map .packet, .code c, ht, fun e he => ?_, by simp⟩
    obtain ⟨q, -, rfl⟩ := List.mem_map.1 he
    exact .inl ⟨q, rfl, data, rfl⟩
  · refine ⟨[.tx frame], .code .ok, ht, fun e he => ?_, by simp⟩
    exact .inr ⟨frame, List.mem_singleton.1 he, type, p, rfl⟩
  · exact ⟨[], .value v, by simp [ht], by simp, fun _ => ⟨n, rfl⟩⟩
  · exact ⟨[], .code c, by simp [ht], by simp, by simp⟩

/-! ## Idempotent commands -/

/-- No register shows the records emitted so far (10_state.md R32). -/
theorem State.regValue_withOutputs (s : State) (os : List PortEvent) (r : RegName) :
    ({ s with outputs := os } : State).regValue r = s.regValue r := by
  cases r <;> rfl

/-- READ_REG and SEND emit records that depend on the engine state alone, whatever was emitted before, and do nothing else
(46_commands.md R212, R222). -/
theorem exec_emits_only {i : Instr} (s : State) (hi : (∃ r, i = .readReg r) ∨ ∃ type p, i = .send type p) :
    ∃ es, ∀ os, exec i { s with outputs := os } = .next { s with outputs := os ++ es } := by
  rcases hi with ⟨n, rfl⟩ | ⟨type, p, rfl⟩
  · cases hn : RegName.ofNumber n with
    | none => exact ⟨_, fun os => execReadReg_eq_next.2 (.inl ⟨hn, rfl⟩)⟩
    | some r =>
      refine ⟨[.response (.value (s.regValue r))], fun os => execReadReg_eq_next.2 (.inr ⟨r, hn, ?_⟩)⟩
      rw [State.regValue_withOutputs]
      rfl
  · cases hv : s.cfg.valid with
    | false => exact ⟨_, fun os => execSend_eq_next.2 (.inl ⟨hv, rfl⟩)⟩
    | true =>
      cases he : encodeFrame s.cfg type p with
      | none => exact ⟨_, fun os => execSend_eq_next.2 (.inr (.inl ⟨hv, he, rfl⟩))⟩
      | some frame =>
        refine ⟨[.tx frame, .response (.code .ok)], fun os => execSend_eq_next.2 (.inr (.inr ⟨hv, frame, he, ?_⟩))⟩
        simp [State.respond, State.emitTx, State.emit]

/-- RESYNC issued twice leaves what RESYNC issued once leaves, but for its response. -/
theorem execResync_twice {s t u : State} (ht : execResync s = .next t) (hu : execResync t = .next u) :
    u = { t with outputs := u.outputs } := by
  rcases execResync_eq_next.1 hu with ⟨-, rfl⟩ | ⟨hvt, rfl⟩
  · rfl
  · rcases execResync_eq_next.1 ht with ⟨hv, rfl⟩ | ⟨-, rfl⟩
    · simp [hv] at hvt
    · rfl

/-- Settles O57: flags and channel reset twice are as reset once, and READ_REG and SEND only emit. -/
theorem idempotentCommands : Obligations.IdempotentCommands := by
  refine ⟨fun i s t u hi ht hu => ?_, fun i s t hi ht => ?_⟩
  · rcases hi with rfl | rfl
    · cases execClearStatus_eq_next.1 ht
      cases execClearStatus_eq_next.1 hu
      rfl
    · exact execResync_twice ht hu
  · obtain ⟨es, hes⟩ := exec_emits_only s hi
    cases ht.symm.trans (hes s.outputs)
    exact ⟨rfl, es, rfl, hes _⟩

end Sys2Proof.Machine
end

section
/-! The decoder said once: what each format reads, what the decoder answers at the head of the command port, and that it reads
exactly the spellings of well-formed commands (30_encoding.md R71, R72, R77, R78). -/

namespace Sys2Proof

/-! ## Bytes of operands -/

theorem loByte_eq_ofNat (w : Word) : loByte w = BitVec.ofNat 8 (w.toNat % 256) := by
  apply BitVec.eq_of_toNat_eq
  rw [loByte_toNat, BitVec.toNat_ofNat]
  omega

theorem hiByte_eq_ofNat (w : Word) : hiByte w = BitVec.ofNat 8 (w.toNat / 256) := by
  apply BitVec.eq_of_toNat_eq
  have := w.isLt
  rw [hiByte_toNat, BitVec.toNat_ofNat]
  omega

theorem lengthBytes_eq_ofNat {bs : List Byte} (h : bs.length ≤ 65535) :
    lengthBytes bs = [BitVec.ofNat 8 (bs.length % 256), BitVec.ofNat 8 (bs.length / 256)] := by
  rw [lengthBytes, loByte_eq_ofNat, hiByte_eq_ofNat, BitVec.toNat_ofNat, Nat.mod_eq_of_lt (a := bs.length) (by omega)]

/-- Two bytes spell the length they hold. -/
theorem lengthBytes_of_length_eq {lo hi : Byte} {bs : List Byte} (h : bs.length = (u16 lo hi).toNat) :
    lengthBytes bs = [lo, hi] := by
  simp [lengthBytes, h]

theorem u16_toNat_le (lo hi : Byte) : (u16 lo hi).toNat ≤ 65535 := by
  have := (u16 lo hi).isLt
  omega

/-- FLAGS[3:0] in plain arithmetic. -/
theorem flagsMlen_toNat (flags : Byte) : (flagsMlen flags).toNat = flags.toNat % 16 := by
  simp [flagsMlen]

/-- FLAGS[7:6] in plain arithmetic. -/
theorem flagsReserved_toNat (flags : Byte) : (flagsReserved flags).toNat = flags.toNat / 64 := by
  have := flags.isLt
  simp only [flagsReserved, BitVec.extractLsb'_toNat, Nat.shiftRight_eq_div_pow]
  omega

theorem Form.ofBit_eq_two {b : Bool} : Form.ofBit b = .two ↔ b = true := by
  cases b <;> simp [Form.ofBit]

/-- Bit `k` of a byte in plain arithmetic. -/
theorem getLsbD_iff_div_mod (b : Byte) (k : Nat) : b.getLsbD k = true ↔ b.toNat / 2 ^ k % 2 = 1 := by
  rw [BitVec.getLsbD, Nat.testBit_eq_decide_div_mod_eq, decide_eq_true_iff]

/-- The fields of a FLAGS byte spell that byte: no bit is outside them (30_encoding.md R72). -/
@[simp] theorem flagsByte_of_fields : ∀ flags : Byte,
    flagsByte (flagsMlen flags) (flagsLenForm flags) (flagsTypeForm flags) (flagsReserved flags) = flags := by decide

/-- 0x00 and 0x07..0xFF, and only they, stand for no opcode (30_encoding.md R86). -/
theorem Opcode.ofByte_eq_none : ∀ {b : Byte}, Opcode.ofByte b = none ↔ (b.toNat = 0 ∨ 7 ≤ b.toNat) := by decide

/-! ## What each format reads -/

/-- The bytes a format announces: `n` of them make the command `f`, and the decoder waits while there are fewer
(30_encoding.md R77, R78). -/
def readBytes (n : Nat) (bs : List Byte) (f : List Byte → Instr) : Decoded :=
  match takeBytes n bs with
  | some (a, rest) => .command (f a) rest
  | none => .incomplete

section
variable {ops bs rest : List Byte} {i : Instr}

theorem readBytes_eq_command {n : Nat} {f : List Byte → Instr} :
    readBytes n bs f = .command i rest ↔ ∃ a, i = f a ∧ a.length = n ∧ bs = a ++ rest := by
  unfold readBytes
  constructor
  · intro h
    cases ht : takeBytes n bs with
    | none => simp [ht] at h
    | some p =>
      simp only [ht, Decoded.command.injEq] at h
      obtain ⟨rfl, rfl⟩ := h
      exact ⟨p.1, rfl, takeBytes_eq_some.1 ht⟩
  · rintro ⟨a, rfl, rfl, rfl⟩
    rw [takeBytes_append]

theorem readBytes_eq_incomplete {n : Nat} {f : List Byte → Instr} : readBytes n bs f = .incomplete ↔ bs.length < n := by
  rw [← takeBytes_eq_none, readBytes]
  cases takeBytes n bs <;> simp

theorem decodeConfigure_cons (chan flags : Byte) (bs : List Byte) : decodeConfigure (chan :: flags :: bs) =
    readBytes (flagsMlen flags).toNat bs
      (.configure chan (flagsLenForm flags) (flagsTypeForm flags) (flagsReserved flags)) := rfl

theorem decodeReceive_cons (lo hi : Byte) (bs : List Byte) :
    decodeReceive (lo :: hi :: bs) = readBytes (u16 lo hi).toNat bs .receive := rfl

theorem decodeSend_cons (typeLo typeHi lo hi : Byte) (bs : List Byte) :
    decodeSend (typeLo :: typeHi :: lo :: hi :: bs) = readBytes (u16 lo hi).toNat bs (.send (u16 typeLo typeHi)) := rfl

theorem decodeConfigure_eq_command : decodeConfigure ops = .command i rest ↔
    ∃ chan flags mk, i = .configure chan (flagsLenForm flags) (flagsTypeForm flags) (flagsReserved flags) mk ∧
      mk.length = (flagsMlen flags).toNat ∧ ops = chan :: flags :: (mk ++ rest) := by
  constructor
  · intro h
    match ops, h with
    | chan :: flags :: bs, h =>
      obtain ⟨mk, hi, hl, rfl⟩ := readBytes_eq_command.1 ((decodeConfigure_cons chan flags bs).symm.trans h)
      exact ⟨chan, flags, mk, hi, hl, rfl⟩
  · rintro ⟨chan, flags, mk, hi, hl, rfl⟩
    exact (decodeConfigure_cons chan flags _).trans (readBytes_eq_command.2 ⟨mk, hi, hl, rfl⟩)

theorem decodeReceive_eq_command : decodeReceive ops = .command i rest ↔
    ∃ lo hi data, i = .receive data ∧ data.length = (u16 lo hi).toNat ∧ ops = lo :: hi :: (data ++ rest) := by
  constructor
  · intro h
    match ops, h with
    | lo :: hi :: bs, h =>
      obtain ⟨data, hi', hl, rfl⟩ := readBytes_eq_command.1 ((decodeReceive_cons lo hi bs).symm.trans h)
      exact ⟨lo, hi, data, hi', hl, rfl⟩
  · rintro ⟨lo, hi, data, hi', hl, rfl⟩
    exact (decodeReceive_cons lo hi _).trans (readBytes_eq_command.2 ⟨data, hi', hl, rfl⟩)

theorem decodeSend_eq_command : decodeSend ops = .command i rest ↔
    ∃ typeLo typeHi lo hi payload, i = .send (u16 typeLo typeHi) payload ∧ payload.length = (u16 lo hi).toNat ∧
      ops = typeLo :: typeHi :: lo :: hi :: (payload ++ rest) := by
  constructor
  · intro h
    match ops, h with
    | typeLo :: typeHi :: lo :: hi :: bs, h =>
      obtain ⟨payload, hi', hl, rfl⟩ := readBytes_eq_command.1 ((decodeSend_cons typeLo typeHi lo hi bs).symm.trans h)
      exact ⟨typeLo, typeHi, lo, hi, payload, hi', hl, rfl⟩
  · rintro ⟨typeLo, typeHi, lo, hi, payload, hi', hl, rfl⟩
    exact (decodeSend_cons typeLo typeHi lo hi _).trans (readBytes_eq_command.2 ⟨payload, hi', hl, rfl⟩)

theorem decodeReadReg_eq_command : decodeReadReg ops = .command i rest ↔
    ∃ regnum, i = .readReg regnum ∧ ops = regnum :: rest := by
  cases ops <;> simp [decodeReadReg, eq_comm]

end

/-- The operand decoder of each opcode (30_encoding.md R85). -/
def Opcode.decodeOperands : Opcode → List Byte → Decoded
  | .configure => decodeConfigure
  | .receive => decodeReceive
  | .send => decodeSend
  | .resync => .command .resync
  | .readReg => decodeReadReg
  | .clearStatus => .command .clearStatus

theorem decode_byte_cons (o : Opcode) (ops : List Byte) : decode (o.byte :: ops) = o.decodeOperands ops := by
  cases o <;> rfl

/-- Each opcode's operands are read exactly from the operand bytes of a well-formed command of that opcode (30_encoding.md
R72). -/
theorem Opcode.decodeOperands_eq_command {o : Opcode} {ops rest : List Byte} {i : Instr} :
    o.decodeOperands ops = .command i rest ↔ i.opcode = o ∧ i.wf = true ∧ ops = i.operandBytes ++ rest := by
  cases o with
  | configure =>
    refine decodeConfigure_eq_command.trans ⟨?_, fun ⟨ho, hw, hops⟩ => ?_⟩
    · rintro ⟨chan, flags, mk, rfl, hl, rfl⟩
      have hlt := (flagsMlen flags).isLt
      have hle : (flagsMlen flags).toNat ≤ 15 := by omega
      simp [Instr.opcode, Instr.wf, Instr.operandBytes, hl, hle]
    · cases i with
      | configure chan lf tf rsv mk =>
        have hl : mk.length ≤ 15 := by simpa [Instr.wf] using hw
        refine ⟨chan, flagsByte (BitVec.ofNat 4 mk.length) lf tf rsv, mk, by simp, ?_, hops⟩
        rw [flagsMlen_flagsByte, BitVec.toNat_ofNat]
        omega
      | _ => simp [Instr.opcode] at ho
  | receive =>
    refine decodeReceive_eq_command.trans ⟨?_, fun ⟨ho, hw, hops⟩ => ?_⟩
    · rintro ⟨lo, hi, data, rfl, hl, rfl⟩
      simp [Instr.opcode, Instr.wf, Instr.operandBytes, lengthBytes_of_length_eq hl, hl, u16_toNat_le]
    · cases i with
      | receive data =>
        have hl : data.length ≤ 65535 := by simpa [Instr.wf] using hw
        exact ⟨_, _, data, rfl, (u16_lengthBytes hl).symm, hops⟩
      | _ => simp [Instr.opcode] at ho
  | send =>
    refine decodeSend_eq_command.trans ⟨?_, fun ⟨ho, hw, hops⟩ => ?_⟩
    · rintro ⟨typeLo, typeHi, lo, hi, payload, rfl, hl, rfl⟩
      simp [Instr.opcode, Instr.wf, Instr.operandBytes, lengthBytes_of_length_eq hl, hl, u16_toNat_le]
    · cases i with
      | send type payload =>
        have hl : payload.length ≤ 65535 := by simpa [Instr.wf] using hw
        exact ⟨loByte type, hiByte type, _, _, payload, by simp, (u16_lengthBytes hl).symm,
          by simpa [Instr.operandBytes, lengthBytes] using hops⟩
      | _ => simp [Instr.opcode] at ho
  | readReg =>
    refine decodeReadReg_eq_command.trans ⟨?_, fun ⟨ho, _, hops⟩ => ?_⟩
    · rintro ⟨regnum, rfl, rfl⟩
      exact ⟨rfl, rfl, rfl⟩
    · cases i with
      | readReg regnum => exact ⟨regnum, rfl, hops⟩
      | _ => simp [Instr.opcode] at ho
  | resync => cases i <;> simp [decodeOperands, Instr.opcode, Instr.wf, Instr.operandBytes]
  | clearStatus => cases i <;> simp [decodeOperands, Instr.opcode, Instr.wf, Instr.operandBytes]

/-- No operands make a legal opcode illegal. -/
theorem Opcode.decodeOperands_ne_illegal (o : Opcode) (ops : List Byte) (op : Byte) (rest : List Byte) :
    o.decodeOperands ops ≠ .illegal op rest := by
  cases o <;> simp only [decodeOperands, decodeConfigure, decodeReceive, decodeSend, decodeReadReg]
  all_goals repeat' split
  all_goals simp

/-! ## What stands at the head of the command port -/

/-- The decoder reads a command exactly from the spelling of a well-formed one (30_encoding.md R71, R72). -/
theorem decode_eq_command {bs rest : List Byte} {i : Instr} :
    decode bs = .command i rest ↔ i.wf = true ∧ bs = encode i ++ rest := by
  constructor
  · intro h
    cases bs with
    | nil => cases h
    | cons op ops =>
      cases ho : Opcode.ofByte op with
      | none => simp [decode, ho] at h
      | some o =>
        obtain rfl := Opcode.ofByte_eq_some.1 ho
        rw [decode_byte_cons] at h
        obtain ⟨rfl, hw, rfl⟩ := Opcode.decodeOperands_eq_command.1 h
        exact ⟨hw, rfl⟩
  · rintro ⟨hw, rfl⟩
    exact (decode_byte_cons _ _).trans (Opcode.decodeOperands_eq_command.2 ⟨rfl, hw, rfl⟩)

/-- The decoder finds an illegal command exactly where a byte that stands for no opcode comes first (30_encoding.md R86). -/
theorem decode_eq_illegal {bs rest : List Byte} {op : Byte} :
    decode bs = .illegal op rest ↔ bs = op :: rest ∧ Opcode.ofByte op = none := by
  constructor
  · intro h
    cases bs with
    | nil => cases h
    | cons op' ops =>
      cases ho : Opcode.ofByte op' with
      | none =>
        simp only [decode, ho, Decoded.illegal.injEq] at h
        obtain ⟨rfl, rfl⟩ := h
        exact ⟨rfl, ho⟩
      | some o =>
        obtain rfl := Opcode.ofByte_eq_some.1 ho
        exact absurd ((decode_byte_cons _ _).symm.trans h) (Opcode.decodeOperands_ne_illegal _ _ _ _)
  · rintro ⟨rfl, ho⟩
    simp [decode, ho]

/-- A command is read whatever comes behind it: a proper beginning of a well-formed command's bytes is none itself
(30_encoding.md R78). -/
theorem decode_of_partial {i : Instr} {bs missing : List Byte} (hw : i.wf = true) (hm : missing ≠ [])
    (h : encode i = bs ++ missing) : decode bs = .incomplete := by
  have hi : decode (bs ++ missing) = .command i [] := decode_eq_command.2 ⟨hw, by simp [h]⟩
  cases hd : decode bs with
  | incomplete => rfl
  | illegal op rest =>
    obtain ⟨rfl, ho⟩ := decode_eq_illegal.1 hd
    rw [List.cons_append, decode_eq_illegal.2 ⟨rfl, ho⟩] at hi
    cases hi
  | command j rest =>
    obtain ⟨hj, rfl⟩ := decode_eq_command.1 hd
    rw [List.append_assoc, decode_eq_command.2 ⟨hj, rfl⟩] at hi
    injection hi with _ hrest
    exact absurd (List.append_eq_nil_iff.1 hrest).2 hm

/-! ## The length rule -/

theorem commandLength_encode {i : Instr} (hw : i.wf = true) (rest : List Byte) :
    commandLength (encode i ++ rest) = some (encode i).length := by
  cases i with
  | configure chan lf tf rsv mk => exact Laws.EncodedLength.configure chan lf tf rsv mk hw rest
  | receive data => exact Laws.EncodedLength.receive data hw rest
  | send type payload => exact Laws.EncodedLength.send type payload hw rest
  | resync => exact Laws.EncodedLength.resync hw rest
  | readReg regnum => exact Laws.EncodedLength.readReg regnum hw rest
  | clearStatus => exact Laws.EncodedLength.clearStatus hw rest

theorem commandLength_illegal {op : Byte} (ho : Opcode.ofByte op = none) (bs : List Byte) :
    commandLength (op :: bs) = some 1 := by
  simp [commandLength, ho]

/-- Once the bytes that give the length are there, an opcode's operands are incomplete only while fewer bytes than it have
arrived (30_encoding.md R77). -/
theorem Opcode.length_lt_of_incomplete {o : Opcode} {ops : List Byte} {n : Nat} (h : o.decodeOperands ops = .incomplete)
    (hn : commandLength (o.byte :: ops) = some n) : ops.length + 1 < n := by
  match o, ops, h, hn with
  | .configure, chan :: flags :: bs, h, hn =>
    have := readBytes_eq_incomplete.1 ((decodeConfigure_cons chan flags bs).symm.trans h)
    cases hn
    simp only [List.length_cons]
    omega
  | .receive, lo :: hi :: bs, h, hn =>
    have := readBytes_eq_incomplete.1 ((decodeReceive_cons lo hi bs).symm.trans h)
    cases hn
    simp only [List.length_cons]
    omega
  | .send, typeLo :: typeHi :: lo :: hi :: bs, h, hn =>
    have := readBytes_eq_incomplete.1 ((decodeSend_cons typeLo typeHi lo hi bs).symm.trans h)
    cases hn
    simp only [List.length_cons]
    omega
  | .readReg, [], h, hn => cases hn; decide

/-- The decoder waits only while fewer bytes have arrived than the length rule gives (30_encoding.md R77, R78). -/
theorem length_lt_of_incomplete {bs : List Byte} {n : Nat} (h : decode bs = .incomplete)
    (hn : commandLength bs = some n) : bs.length < n := by
  cases bs with
  | nil => cases hn
  | cons op ops =>
    cases ho : Opcode.ofByte op with
    | none => simp [decode, ho] at h
    | some o =>
      obtain rfl := Opcode.ofByte_eq_some.1 ho
      rw [decode_byte_cons] at h
      exact Opcode.length_lt_of_incomplete h hn

/-- What is read takes the bytes the length rule gives (30_encoding.md R77). -/
theorem commandLength_of_command {bs rest : List Byte} {i : Instr} (h : decode bs = .command i rest) :
    rest.length ≤ bs.length ∧ commandLength bs = some (bs.length - rest.length) := by
  obtain ⟨hw, rfl⟩ := decode_eq_command.1 h
  rw [commandLength_encode hw, List.length_append]
  exact ⟨by omega, congrArg some (by omega)⟩

/-- The decoder waits exactly while fewer bytes have arrived than the length rule gives, or too few to give one (30_encoding.md
R77, R78). -/
theorem decode_eq_incomplete {bs : List Byte} :
    decode bs = .incomplete ↔ ∀ n, commandLength bs = some n → bs.length < n := by
  refine ⟨fun h n => length_lt_of_incomplete h, fun h => ?_⟩
  cases hd : decode bs with
  | incomplete => rfl
  | illegal op rest =>
    obtain ⟨rfl, ho⟩ := decode_eq_illegal.1 hd
    simpa using h 1 (commandLength_illegal ho rest)
  | command i rest =>
    have := h _ (commandLength_of_command hd).2
    omega

end Sys2Proof

namespace Sys2Proof.Machine

/-- Settles O2: the decoder reads the spelling of every well-formed command. -/
theorem decodeOfEncodeGivesCommandBack : Obligations.DecodeOfEncodeGivesCommandBack :=
  fun _ _ hw => decode_eq_command.2 ⟨hw, rfl⟩

/-- Settles O3: the decoder reads nothing else. -/
theorem encodeOfDecodeGivesBytesBack : Obligations.EncodeOfDecodeGivesBytesBack := fun _ _ _ h =>
  have ⟨hw, hbs⟩ := decode_eq_command.1 h
  ⟨hw, hbs.symm⟩

/-- Settles O4, from what each format reads, in plain arithmetic. -/
theorem formatsGiveOperands : Obligations.FormatsGiveOperands := by
  intro rest
  refine ⟨fun chan flags mk hl => ?_, fun lo hi data hl => ?_, fun typeLo typeHi lo hi payload hl => ?_, rfl,
    fun _ => rfl, rfl⟩
  · refine ⟨flagsLenForm flags, flagsTypeForm flags, flagsReserved flags, ?_, ?_, ?_, flagsReserved_toNat flags⟩
    · exact (decode_byte_cons .configure _).trans
        (decodeConfigure_eq_command.2 ⟨chan, flags, mk, rfl, hl.trans (flagsMlen_toNat flags).symm, rfl⟩)
    · exact Form.ofBit_eq_two.trans (getLsbD_iff_div_mod flags 4)
    · exact Form.ofBit_eq_two.trans (getLsbD_iff_div_mod flags 5)
  · exact (decode_byte_cons .receive _).trans
      (decodeReceive_eq_command.2 ⟨lo, hi, data, rfl, hl.trans (u16_toNat lo hi).symm, rfl⟩)
  · exact ⟨u16 typeLo typeHi, u16_toNat typeLo typeHi, (decode_byte_cons .send _).trans
      (decodeSend_eq_command.2 ⟨typeLo, typeHi, lo, hi, payload, rfl, hl.trans (u16_toNat lo hi).symm, rfl⟩)⟩

/-- Settles O5: the six cases of the length rule, and the decoder's three answers against it. -/
theorem decoderConsumesTheCommandLength : Obligations.DecoderConsumesTheCommandLength := by
  refine ⟨fun chan flags bs => ?_, fun lo hi bs => ?_, fun tl th lo hi bs => ?_, fun bs => rfl, fun op bs h1 h2 h3 h5 => ?_,
    fun bs => ⟨fun i rest => commandLength_of_command, fun op rest h => ?_, decode_eq_incomplete⟩⟩
  · rw [← flagsMlen_toNat]; rfl
  · rw [← u16_toNat]; rfl
  · rw [← u16_toNat]; rfl
  · cases ho : Opcode.ofByte op with
    | none => exact commandLength_illegal ho bs
    | some o =>
      obtain rfl := Opcode.ofByte_eq_some.1 ho
      cases o with
      | configure => exact absurd rfl h1
      | receive => exact absurd rfl h2
      | send => exact absurd rfl h3
      | readReg => exact absurd rfl h5
      | resync => rfl
      | clearStatus => rfl
  · obtain ⟨rfl, ho⟩ := decode_eq_illegal.1 h
    exact ⟨rfl, commandLength_illegal ho rest⟩

/-- Settles O6: exactly the bytes that stand for no opcode are illegal, and a step refuses one of them alone. -/
theorem illegalOpcodeAnswersIllegalCommand : Obligations.IllegalOpcodeAnswersIllegalCommand := by
  refine ⟨fun op bs => ?_, fun s op bs hr hc hop => ?_⟩
  · rw [decode_eq_illegal, Opcode.ofByte_eq_none]
    simp
  · have hf : s.fetch = .illegal op bs := decode_eq_illegal.2 ⟨hc, Opcode.ofByte_eq_none.2 hop⟩
    exact step_eq_next.2 (.inr ⟨hr, .inr (.inl ⟨op, bs, hf, rfl⟩)⟩)

/-- Settles O8: a proper beginning of a command is no command yet. -/
theorem partialCommandIsHeld : Obligations.PartialCommandIsHeld := fun _ _ _ hw hr hm h =>
  step_eq_next.2 (.inr ⟨hr, .inl ⟨decode_of_partial hw hm h, rfl⟩⟩)

/-- Settles O1, by evaluating the decoder on the nine words. -/
theorem sampleWordsDecode : Obligations.SampleWordsDecode := by
  refine ⟨?_, ?_, ?_, ?_, ?_, ?_, ?_, ?_, ?_⟩ <;> decide

end Sys2Proof.Machine
end

section
/-! What the bytes of the response and the packet port are (30_encoding.md R74 to R76), and what the assembler spells (R96,
R97). -/

namespace Sys2Proof.Machine

/-! ## The response port -/

@[simp] theorem responseStream_append (es es' : List PortEvent) :
    responseStream (es ++ es') = responseStream es ++ responseStream es' := by
  induction es with
  | nil => rfl
  | cons e es ih => cases e <;> simp [responseStream, ih]

/-- Packet records and transmit bytes put nothing on the response port. -/
theorem responseStream_eq_nil {es : List PortEvent} (h : ∀ e ∈ es, (∃ p, e = .packet p) ∨ ∃ bytes, e = .tx bytes) :
    responseStream es = [] := by
  induction es with
  | nil => rfl
  | cons e es ih =>
    have ih := ih fun e he => h e (List.mem_cons_of_mem _ he)
    rcases h e List.mem_cons_self with ⟨p, rfl⟩ | ⟨bytes, rfl⟩ <;> exact ih

/-- A value's low byte is sent first (30_encoding.md R75). -/
theorem Response.bytes_value (v : Word) :
    (Response.value v).bytes = [0x00#8, BitVec.ofNat 8 (v.toNat % 256), BitVec.ofNat 8 (v.toNat / 256)] := by
  rw [Response.bytes, loByte_eq_ofNat, hiByte_eq_ofNat]

/-- The registers are numbered from 0 to 0x0C (10_state.md R32). -/
theorem RegName.ofNumber_eq_none : ∀ {n : Byte}, RegName.ofNumber n = none ↔ 0x0C < n.toNat := by decide

/-- READ_REG answers a value exactly where the number is a register's (46_commands.md R222). -/
theorem exec_readReg_value_iff {n : Byte} {s t : State} {events : List PortEvent} {r : Response}
    (h : exec (.readReg n) s = .next t) (ht : t.outputs = events ++ [.response r]) :
    (∃ v, r = .value v) ↔ n.toNat ≤ 0x0C := by
  rw [← not_lt, ← RegName.ofNumber_eq_none]
  rcases execReadReg_eq_next.1 h with ⟨hn, rfl⟩ | ⟨reg, hn, rfl⟩
  · obtain ⟨-, he⟩ := List.append_inj' ht rfl
    cases he
    simp [hn]
  · obtain ⟨-, he⟩ := List.append_inj' ht rfl
    cases he
    simp [hn]

/-- Settles O26: one response comes last, and nothing before it is on the response port. -/
theorem responsePortBytes : Obligations.ResponsePortBytes := by
  refine ⟨fun op s t h => ?_, fun i s t h => ?_⟩
  · cases h
    exact responseStream_append _ _
  · obtain ⟨events, r, ht, hev, hval⟩ := oneResponseLast i s t h
    have hnil : responseStream events = [] := responseStream_eq_nil fun e he =>
      (hev e he).imp (fun ⟨p, hp, _⟩ => ⟨p, hp⟩) fun ⟨bytes, hb, _⟩ => ⟨bytes, hb⟩
    refine ⟨r, by simp [ht], by simp [ht, hnil, responseStream], ⟨fun hv => ?_, ?_⟩, ?_, ?_⟩
    · obtain ⟨n, rfl⟩ := hval hv
      exact ⟨n, rfl, (exec_readReg_value_iff h ht).1 hv⟩
    · rintro ⟨n, rfl, hn⟩
      exact (exec_readReg_value_iff h ht).2 hn
    · rintro v rfl
      exact Response.bytes_value v
    · rintro c rfl
      cases c <;> rfl

/-! ## The packet port and the assembler -/

/-- Settles O27: type and length go low byte first, and a length up to 32767 fits its two bytes. -/
theorem packetRecordBytes : Obligations.PacketRecordBytes := by
  intro p hp
  rw [Packet.bytes, loByte_eq_ofNat, hiByte_eq_ofNat, lengthBytes_eq_ofNat (by omega)]
  rfl

/-- A burst of one byte is sent as `02 01 00` and the byte (30_encoding.md R97). -/
theorem encode_receive_singleton (b : Byte) : encode (.receive [b]) = [0x02#8, 0x01#8, 0x00#8, b] := by
  simp [encode, Instr.opcode, Opcode.byte, Instr.operandBytes, lengthBytes_eq_ofNat]

/-- Settles O28: each line by what `dataBytes` makes of its items, and RECEIVE_EACH by the spelling of a one-byte burst. -/
theorem assemblerSpellsCommands : Obligations.AssemblerSpellsCommands := by
  refine ⟨by decide, fun k b => ?_, fun data => rfl, fun data => ?_⟩
  · simp [dataBytes]
  · simp [assemble, receiveEach, List.flatMap_map, encode_receive_singleton]

end Sys2Proof.Machine
end

section
/-! No command reads the command port: with other bytes waiting behind it a command does the same, and leaves those bytes
(46_commands.md R200, R228). So a stream of commands runs them one after another. -/

namespace Sys2Proof.Machine

section
variable (s : State) (rest : List Byte) (b : Byte)

/-! ## One byte, with other bytes waiting -/

theorem State.deliver_consumeTo : (s.consumeTo rest).deliver = s.deliver.map (·.consumeTo rest) := by
  have hp : (s.consumeTo rest).receivedPayload = s.receivedPayload := rfl
  rw [deliver, deliver, hp]
  cases s.receivedPayload <;> rfl

theorem State.complete_consumeTo : (s.consumeTo rest).complete = s.complete.map (·.consumeTo rest) := by
  have hp : (s.consumeTo rest).receivedPayload = s.receivedPayload := rfl
  rw [complete, complete, hp]
  cases s.receivedPayload with
  | error f => rfl
  | ok p =>
    rw [apply_ite (Except.map _), ← deliver_consumeTo]
    rfl

theorem State.lenDone_consumeTo : (s.consumeTo rest).lenDone = s.lenDone.consumeTo rest  :=
  (apply_ite (fun u : State => u.consumeTo rest) (s.frame.rxLen.toNat > s.params.maxPayload) s.headerFail
    (s.setPhase .typeB0)).symm

theorem State.typeDone_consumeTo : (s.consumeTo rest).typeDone = s.typeDone.map (·.consumeTo rest) := by
  rw [typeDone, typeDone, apply_ite (Except.map _), ← deliver_consumeTo]
  rfl

theorem State.stepLenB0_consumeTo : (s.consumeTo rest).stepLenB0 b = (s.stepLenB0 b).consumeTo rest := by
  simp only [stepLenB0, consumeTo_cfg]
  split
  · split
    · rfl
    · next v _ => exact lenDone_consumeTo { s with frame := { s.frame with rxLen := v } } rest
  · split <;> rfl

theorem State.stepLenB1_consumeTo : (s.consumeTo rest).stepLenB1 b = (s.stepLenB1 b).consumeTo rest := by
  simp only [stepLenB1, consumeTo_frame]
  split
  · rfl
  · next v _ => exact lenDone_consumeTo { s with frame := { s.frame with rxLen := v } } rest

theorem State.stepTypeB0_consumeTo : (s.consumeTo rest).stepTypeB0 b = (s.stepTypeB0 b).map (·.consumeTo rest) := by
  simp only [stepTypeB0, consumeTo_cfg]
  split
  · split
    · rfl
    · next v _ => exact typeDone_consumeTo { s with frame := { s.frame with rxType := v } } rest
  · split <;> rfl

theorem State.stepTypeB1_consumeTo : (s.consumeTo rest).stepTypeB1 b = (s.stepTypeB1 b).map (·.consumeTo rest) := by
  simp only [stepTypeB1, consumeTo_frame]
  split
  · rfl
  · next v _ => exact typeDone_consumeTo { s with frame := { s.frame with rxType := v } } rest

theorem State.stepPayload_consumeTo : (s.consumeTo rest).stepPayload b = (s.stepPayload b).map (·.consumeTo rest) := by
  rw [stepPayload_eq, stepPayload_eq, apply_ite (Except.map _), apply_ite (Except.map _), ← complete_consumeTo]
  rfl

theorem State.decodeStep_consumeTo : (s.consumeTo rest).decodeStep b = (s.decodeStep b).map (·.consumeTo rest) := by
  simp only [decodeStep, consumeTo_frame]
  split
  · exact congrArg Except.ok (stepLenB0_consumeTo s rest b)
  · exact congrArg Except.ok (stepLenB1_consumeTo s rest b)
  · exact stepTypeB0_consumeTo s rest b
  · exact stepTypeB1_consumeTo s rest b
  · rfl
  · rfl
  · exact stepPayload_consumeTo s rest b

theorem State.syncStep_consumeTo : (s.consumeTo rest).syncStep b = (s.syncStep b).map (·.consumeTo rest) := by
  simp only [syncStep, consumeTo_cfg, consumeTo_sync]
  split
  · rfl
  · rw [apply_ite (Except.map _)]
    rfl

theorem State.processByte_consumeTo : (s.consumeTo rest).processByte b = (s.processByte b).map (·.consumeTo rest) := by
  simp only [processByte, consumeTo_sync]
  split
  · exact syncStep_consumeTo s rest b
  · exact decodeStep_consumeTo s rest b

end

/-! ## A command, with other bytes waiting -/

section
variable {s t : State} (rest : List Byte)

theorem drain_consumeTo {k : Nat} (h : drain k s = .ok t) : drain k (s.consumeTo rest) = .ok (t.consumeTo rest) := by
  induction k generalizing s with
  | zero => cases h; rfl
  | succ k ih =>
    rcases drain_succ_eq_ok.1 h with ⟨h0, rfl⟩ | ⟨h0, b, s1, s2, h1, h2, h3⟩
    · exact drain_of_empty (s := State.consumeTo _ rest) h0 _
    · obtain ⟨-, hrd, hread, rfl⟩ := State.ringReadOne_eq_ok.1 h1
      have h1' := (State.ringReadOne_eq_ok (s := s.consumeTo rest)).2 ⟨h0, hrd, hread, rfl⟩
      have h2' := (State.processByte_consumeTo _ rest b).trans (congrArg (Except.map (·.consumeTo rest)) h2)
      exact drain_succ_eq_ok.2 (.inr ⟨h0, b, _, _, h1', h2', ih h3⟩)

theorem execReceive_consumeTo {data : List Byte} (h : execReceive data s = .next t) :
    execReceive data (s.consumeTo rest) = .next (t.consumeTo rest) := by
  rcases execReceive_eq_next.1 h with ⟨hv, rfl⟩ | ⟨hv, hw, rfl⟩ | ⟨hv, s1, s2, hw, hd, rfl⟩
  · exact execReceive_eq_next.2 (.inl ⟨hv, rfl⟩)
  · have hw' := (State.ringWrite_eq_none (s := s.consumeTo rest)).2 (State.ringWrite_eq_none (s := s).1 hw)
    exact execReceive_eq_next.2 (.inr (.inl ⟨hv, hw', rfl⟩))
  · obtain ⟨hfits, rfl⟩ := State.ringWrite_eq_some.1 hw
    have hw' := (State.ringWrite_eq_some (s := s.consumeTo rest)).2 ⟨hfits, rfl⟩
    exact execReceive_eq_next.2 (.inr (.inr ⟨hv, _, _, hw', drain_consumeTo rest hd, rfl⟩))

/-- No register shows the command port (10_state.md R32). -/
theorem State.regValue_consumeTo (s : State) (r : RegName) : (s.consumeTo rest).regValue r = s.regValue r := by
  cases r <;> rfl

/-- With other bytes waiting behind it, a command does the same to all else and leaves those bytes. -/
theorem exec_consumeTo {i : Instr} (h : exec i s = .next t) : exec i (s.consumeTo rest) = .next (t.consumeTo rest) := by
  cases i with
  | configure chan lf tf rsv mk =>
    rcases execConfigure_eq_next.1 h with ⟨hv, rfl⟩ | ⟨hv, hl, rfl⟩ | ⟨hv, hl, rfl⟩
    · exact execConfigure_eq_next.2 (.inl ⟨hv, rfl⟩)
    · exact execConfigure_eq_next.2 (.inr (.inl ⟨hv, hl, rfl⟩))
    · exact execConfigure_eq_next.2 (.inr (.inr ⟨hv, hl, rfl⟩))
  | receive data => exact execReceive_consumeTo rest h
  | send type payload =>
    rcases execSend_eq_next.1 h with ⟨hv, rfl⟩ | ⟨hv, he, rfl⟩ | ⟨hv, frame, he, rfl⟩
    · exact execSend_eq_next.2 (.inl ⟨hv, rfl⟩)
    · exact execSend_eq_next.2 (.inr (.inl ⟨hv, he, rfl⟩))
    · exact execSend_eq_next.2 (.inr (.inr ⟨hv, frame, he, rfl⟩))
  | resync =>
    rcases execResync_eq_next.1 h with ⟨hv, rfl⟩ | ⟨hv, rfl⟩
    · exact execResync_eq_next.2 (.inl ⟨hv, rfl⟩)
    · exact execResync_eq_next.2 (.inr ⟨hv, rfl⟩)
  | readReg n =>
    rcases execReadReg_eq_next.1 h with ⟨hn, rfl⟩ | ⟨r, hn, rfl⟩
    · exact execReadReg_eq_next.2 (.inl ⟨hn, rfl⟩)
    · exact execReadReg_eq_next.2 (.inr ⟨r, hn, by rw [State.regValue_consumeTo]; rfl⟩)
  | clearStatus =>
    cases execClearStatus_eq_next.1 h
    rfl

/-- A command leaves the bytes behind it on the command port, and the reset input (46_commands.md R200). -/
theorem exec_inputs {i : Instr} (h : exec i s = .next t) : t.cmdIn = s.cmdIn ∧ t.resetLine = s.resetLine := by
  by_cases hr : ∃ data, i = .receive data
  · obtain ⟨data, rfl⟩ := hr
    rcases execReceive_eq_next.1 h with ⟨-, rfl⟩ | ⟨-, -, rfl⟩ | ⟨-, s1, s2, hw, hd, rfl⟩
    · exact ⟨rfl, rfl⟩
    · exact ⟨rfl, rfl⟩
    · obtain ⟨-, rfl⟩ := State.ringWrite_eq_some.1 hw
      have hb := burstFrame_drain hd
      exact ⟨hb.cmdIn, hb.resetLine⟩
  · rcases exec_eq_next_cases (fun data hd => hr ⟨data, hd⟩) h with
      ⟨es, rfl⟩ | ⟨-, rfl⟩ | ⟨-, -, rfl⟩ | ⟨_, _, _, _, _, -, -, -, rfl⟩
    all_goals exact ⟨rfl, rfl⟩

/-! ## A stream of commands -/

/-- A step runs the well-formed command at the head of the stream and leaves the bytes behind it (30_encoding.md R71,
46_commands.md R200). -/
theorem step_encode {i : Instr} (hw : i.wf = true) (hr : s.resetLine = false) (h : exec i s = .next t) :
    step (s.consumeTo (encode i ++ rest)) = .next (t.consumeTo rest) :=
  have h' : exec i (s.consumeTo rest) = .next (t.consumeTo rest) := exec_consumeTo rest h
  step_eq_next.2 (.inr ⟨hr, .inr (.inr ⟨i, rest, decode_eq_command.2 ⟨hw, rfl⟩, h'⟩)⟩)

/-- A run of commands goes on exactly where its first command does, and then the others do (46_commands.md R228). -/
theorem runCommands_cons_eq_next {i : Instr} {is : List Instr} :
    runCommands (i :: is) s = .next t ↔ ∃ u, exec i s = .next u ∧ runCommands is u = .next t := by
  rw [runCommands]
  cases exec i s <;> simp

theorem core_run_succ {k : Nat} (h : step s = .next t) : core.run (k + 1) s = core.run k t := by
  simp only [Host.Core.run, show core.step s = .next t from h]

/-- A stream of well-formed commands runs as the commands do, each leaving the bytes behind it. -/
theorem core_run_encode {is : List Instr} (hw : ∀ i ∈ is, i.wf = true) (hr : s.resetLine = false) (hc : s.cmdIn = rest)
    (h : runCommands is s = .next t) : core.run is.length (s.consumeTo (is.flatMap encode ++ rest)) = .next t := by
  induction is generalizing s with
  | nil =>
    cases h
    subst hc
    rfl
  | cons i is ih =>
    obtain ⟨u, hu, h⟩ := runCommands_cons_eq_next.1 h
    obtain ⟨hcu, hru⟩ := exec_inputs hu
    rw [List.flatMap_cons, List.append_assoc, List.length_cons,
      core_run_succ (step_encode _ (hw i List.mem_cons_self) hr hu)]
    exact ih (fun j hj => hw j (List.mem_cons_of_mem _ hj)) (hru.trans hr) (hcu.trans hc) h

end

/-- Settles O9: a step takes one command off the stream, and no command reads what is behind it. -/
theorem streamRunsItsCommandsInOrder : Obligations.StreamRunsItsCommandsInOrder := fun _ s _ rest hw hr h =>
  core_run_encode (s := s.consumeTo rest) rest hw hr rfl h

end Sys2Proof.Machine
end

section
/-! EmptyError is never raised (40_ring_buffer.md R105, 60_exceptions.md R246): of the commands RECEIVE alone can fault, and
its drain loop reads no empty ring. -/

namespace Sys2Proof.Machine

/-- A command that faults is a RECEIVE. -/
theorem exec_eq_fault {i : Instr} {s : State} {f : Fault} (h : exec i s = .fault f) :
    ∃ data, i = .receive data ∧ execReceive data s = .fault f := by
  cases i with
  | receive data => exact ⟨data, rfl, h⟩
  | configure chan lf tf rsv mk =>
    simp only [exec, execConfigure] at h
    split_ifs at h
  | send type payload =>
    simp only [exec, execSend] at h
    split at h
    · split at h <;> cases h
    · cases h
  | resync =>
    simp only [exec, execResync] at h
    split_ifs at h
  | readReg n =>
    simp only [exec, execReadReg] at h
    split at h <;> cases h
  | clearStatus => cases h

/-- A step that faults runs a RECEIVE. -/
theorem step_eq_fault {s : State} {f : Fault} (h : step s = .fault f) :
    ∃ data rest, execReceive data (s.consumeTo rest) = .fault f := by
  unfold step at h
  split at h
  · cases h
  · split at h
    · cases h
    · cases h
    · next i rest _ =>
      obtain ⟨data, -, hd⟩ := exec_eq_fault h
      exact ⟨data, rest, hd⟩

/-- RECEIVE never raises EmptyError: its faults are those of the drain loop. -/
theorem execReceive_ne_emptyError (data : List Byte) (s : State) : execReceive data s ≠ .fault .emptyError := by
  intro h
  obtain ⟨s1, -, hd⟩ := execReceive_eq_fault h
  exact drain_ne_emptyError _ _ hd

/-- Settles O56: only RECEIVE can fault, and it reads the ring only while a byte is unread. -/
theorem emptyErrorIsNeverRaised : Obligations.EmptyErrorIsNeverRaised := by
  refine ⟨fun i s h => ?_, fun s h => ?_⟩
  · obtain ⟨data, -, hd⟩ := exec_eq_fault h
    exact execReceive_ne_emptyError data s hd
  · obtain ⟨data, rest, hd⟩ := step_eq_fault h
    exact execReceive_ne_emptyError data _ hd

end Sys2Proof.Machine
end

section
/-! RECEIVE always completes from the invariant: no received byte faults, so that a burst that fits is absorbed whole
(46_commands.md R210) and overflow is the only way to set OVF (40_ring_buffer.md R108 to R110). -/

namespace Sys2Proof.Machine

/-! ## No byte faults -/

/-- A range of written bytes inside a store is read without a fault. -/
theorem exists_readCells_eq_ok {store : StoreName} {size : Nat} {m : Memory} {i n : Nat}
    (h : ∀ k, k < n → i + k < size ∧ (m.read (i + k)).isSome = true) : ∃ bs, readCells store size m i n = .ok bs := by
  refine ⟨List.ofFn fun k : Fin n => (m.read (i + k)).get (h k k.isLt).2, readCells_eq_ok.2 ⟨List.length_ofFn, ?_⟩⟩
  intro k hk
  rw [List.length_ofFn] at hk
  simp [(h k hk).1]

section
variable {s : State}

/-- The payload is read without a fault where it lies in the store and every byte of it is written. -/
theorem State.exists_receivedPayload_eq_ok (hl : s.frame.rxLen.toNat ≤ s.params.maxPayload)
    (hw : ∀ i, i < s.frame.rxLen.toNat → (s.pbufByte i).isSome = true) : ∃ p, s.receivedPayload = .ok p :=
  exists_readCells_eq_ok fun k hk => by
    rw [Nat.zero_add]
    exact ⟨hk.trans_le hl, hw k hk⟩

/-- TypeDone never faults: it delivers an empty payload only (45_decoder.md R188). -/
theorem State.exists_typeDone_eq_ok (s : State) : ∃ t, s.typeDone = .ok t := by
  unfold State.typeDone
  split
  · next h0 =>
    obtain ⟨p, hp⟩ := State.exists_receivedPayload_eq_ok (s := s) (by simp [h0]) (by simp [h0])
    exact ⟨_, State.deliver_eq_ok.2 ⟨p, hp, rfl⟩⟩
  · exact ⟨_, rfl⟩

theorem State.exists_stepTypeB0_eq_ok (s : State) (b : Byte) : ∃ t, s.stepTypeB0 b = .ok t := by
  unfold State.stepTypeB0
  split
  · split
    · exact ⟨_, rfl⟩
    · exact State.exists_typeDone_eq_ok _
  · split <;> exact ⟨_, rfl⟩

theorem State.exists_stepTypeB1_eq_ok (s : State) (b : Byte) : ∃ t, s.stepTypeB1 b = .ok t := by
  unfold State.stepTypeB1
  split
  · exact ⟨_, rfl⟩
  · exact State.exists_typeDone_eq_ok _

/-- A payload byte has its place in PBUF, and behind the last one every byte of the payload is written (45_decoder.md R190). -/
theorem State.ByteInv.exists_stepPayload_eq_ok (h : s.ByteInv) (hm : s.sync.mode = .inFrame)
    (hp : s.frame.phase = .payload) (b : Byte) : ∃ t, s.stepPayload b = .ok t := by
  have hf := h.frameFits hm
  simp only [Frame.Fits, hp] at hf
  obtain ⟨⟨hl, -⟩, hcount, -, -⟩ := hf
  rw [State.stepPayload_eq, if_pos (hcount.trans_le hl)]
  split
  · next hlast =>
    have hsucc : s.frame.rxLen.toNat ≤ s.frame.rxCount.toNat + 1 := by
      rw [← hlast, BitVec.toNat_add]
      exact Nat.mod_le _ _
    have hw : ∀ i, i < s.frame.rxLen.toNat → ((s.storePayload b).pbufByte i).isSome = true := fun i hi => by
      by_cases he : i = s.frame.rxCount.toNat
      · simp [State.storePayload, he, Memory.read_write_same]
      · simpa [State.storePayload, Memory.read_write_other _ _ _ _ he] using h.payloadWritten i (by omega)
    obtain ⟨p, hpay⟩ := State.exists_receivedPayload_eq_ok (s := s.storePayload b) hl hw
    exact ⟨_, State.complete_eq_ok.2 ⟨p, hpay, rfl⟩⟩
  · exact ⟨_, rfl⟩

theorem State.ByteInv.exists_decodeStep_eq_ok (h : s.ByteInv) (hm : s.sync.mode = .inFrame) (b : Byte) :
    ∃ t, s.decodeStep b = .ok t := by
  unfold State.decodeStep
  cases hp : s.frame.phase with
  | typeB0 => exact s.exists_stepTypeB0_eq_ok b
  | typeB1 => exact s.exists_stepTypeB1_eq_ok b
  | payload => exact h.exists_stepPayload_eq_ok hm hp b
  | _ => exact ⟨_, rfl⟩

/-- While HUNTING, MARKER[M] exists (41_synchronizer.md R122). -/
theorem State.ByteInv.exists_syncStep_eq_ok (h : s.ByteInv) (hm : s.sync.mode = .hunting) (b : Byte) :
    ∃ t, s.syncStep b = .ok t := by
  obtain ⟨-, h8, -, hlt⟩ := h.configInRange h.valid
  exact ⟨_, State.syncStep_eq_ok.2 ⟨_, Vector.getElem?_eq_getElem ((hlt hm).trans_le h8), rfl⟩⟩

/-- No received byte faults. -/
theorem State.ByteInv.exists_processByte_eq_ok (h : s.ByteInv) (b : Byte) : ∃ t, s.processByte b = .ok t := by
  unfold State.processByte
  cases hm : s.sync.mode with
  | hunting => exact h.exists_syncStep_eq_ok hm b
  | inFrame => exact h.exists_decodeStep_eq_ok hm b

/-- No burst faults. -/
theorem State.ByteInv.exists_absorb_eq_ok (h : s.ByteInv) (data : List Byte) :
    ∃ t locked, absorb data s = .ok (t, locked) := by
  induction data generalizing s with
  | nil => exact ⟨s, false, rfl⟩
  | cons b data ih =>
    obtain ⟨u, hu⟩ := h.exists_processByte_eq_ok b
    rw [absorb, hu]
    dsimp only
    split
    · exact ⟨u, true, rfl⟩
    · exact ih (h.processByte hu)

/-! ## RECEIVE -/

/-- Between commands a burst that fits is absorbed, its RECEIVE going on. -/
theorem State.Inv.exists_execReceive_eq_next (h : s.Inv) (hv : s.cfg.valid = true) {data : List Byte}
    (hl : data.length < s.params.ringCapacity) : ∃ a locked, absorb data s = .ok (a, locked) ∧
      Machine.execReceive data s = .next ((a.withRing ((s.writtenRing data).drained locked)).respond .ok) := by
  obtain ⟨hrd, hwr⟩ := h.cursorsInRange
  obtain ⟨a, locked, ha⟩ := (h.byteInv hv).exists_absorb_eq_ok data
  exact ⟨a, locked, ha, (execReceive_eq_next_absorb hv h.ringDrained hrd hwr hl).2 ⟨a, locked, ha, rfl⟩⟩

/-- Absorbing a burst leaves OVF as it was (40_ring_buffer.md R108). -/
theorem absorb_ovf {data : List Byte} {t : State} {locked : Bool} (h : absorb data s = .ok (t, locked)) :
    t.flags.ovf = s.flags.ovf :=
  absorb_keeps (P := fun u => u.flags.ovf = s.flags.ovf) (fun _ _ _ hs hp => (byteFrame_processByte hp).1.ovf.trans hs)
    rfl h

end

/-- Settles O19: between commands the ring is empty, so that C bytes are the least that overflow it; fewer are absorbed. -/
theorem burstOverflowsExactlyAtCapacity : Obligations.BurstOverflowsExactlyAtCapacity := by
  intro s data h hv
  refine ⟨fun hl => execReceive_overflow hv h.ringDrained hl h.capacity_pos, fun hl => ?_⟩
  obtain ⟨a, locked, ha, ht⟩ := h.exists_execReceive_eq_next hv hl
  exact ⟨_, ht, show a.flags.ovf = s.flags.ovf from absorb_ovf ha⟩

end Sys2Proof.Machine
end

section
/-! RECEIVE's frame on the ring store and the payload store: a burst is written to the ring at WR onward, and of the payload
store a byte writes at most PBUF[RX_COUNT], which it counts (45_decoder.md R190). -/

namespace Sys2Proof.Machine

/-! ## What a byte can do to a frame in progress -/

/-- The ways the decoder goes on from `u`, behind the payload byte it may have stored: within the frame, the bytes counted
kept; or out of it, by a HeaderError, a ChecksumError or a packet. -/
inductive DecodesTo (u : State) : State → Prop
  | withinFrame (f : Frame) (hcount : f.rxCount = u.frame.rxCount) : DecodesTo u { u with frame := f }
  | headerFail : DecodesTo u u.headerFail
  | checksumFail : DecodesTo u u.checksumFail
  | packet (p : Packet) : DecodesTo u (u.emitPacket p).endFrame

section
variable {s t : State} {b : Byte}

theorem decodesTo_lenDone (s : State) (v : Word) :
    DecodesTo s ({ s with frame := { s.frame with rxLen := v } } : State).lenDone := by
  unfold State.lenDone
  split
  · exact .headerFail
  · exact .withinFrame { s.frame with rxLen := v, phase := .typeB0 } rfl

theorem decodesTo_typeDone {v : Word} (h : ({ s with frame := { s.frame with rxType := v } } : State).typeDone = .ok t) :
    DecodesTo s t := by
  unfold State.typeDone at h
  split at h
  · obtain ⟨p, -, rfl⟩ := State.deliver_eq_ok.1 h
    exact .packet _
  · cases h
    exact .withinFrame { s.frame with rxType := v, phase := .csB0 } rfl

theorem decodesTo_complete (h : s.complete = .ok t) : DecodesTo s t := by
  obtain ⟨p, -, rfl⟩ := State.complete_eq_ok.1 h
  split
  · exact .packet _
  · exact .checksumFail

theorem decodesTo_stepLenB0 (s : State) (b : Byte) : DecodesTo s (s.stepLenB0 b) := by
  unfold State.stepLenB0
  split
  · split
    · exact .headerFail
    · exact decodesTo_lenDone s _
  · split
    · exact .headerFail
    · next v _ => exact .withinFrame { s.frame with rxLen := v, phase := .lenB1 } rfl

theorem decodesTo_stepLenB1 (s : State) (b : Byte) : DecodesTo s (s.stepLenB1 b) := by
  unfold State.stepLenB1
  split
  · exact .headerFail
  · exact decodesTo_lenDone s _

theorem decodesTo_stepTypeB0 (h : s.stepTypeB0 b = .ok t) : DecodesTo s t := by
  unfold State.stepTypeB0 at h
  split at h
  · split at h
    · cases h; exact .headerFail
    · exact decodesTo_typeDone h
  · split at h
    · cases h; exact .headerFail
    · next v _ => cases h; exact .withinFrame { s.frame with rxType := v, phase := .typeB1 } rfl

theorem decodesTo_stepTypeB1 (h : s.stepTypeB1 b = .ok t) : DecodesTo s t := by
  unfold State.stepTypeB1 at h
  split at h
  · cases h; exact .headerFail
  · exact decodesTo_typeDone h

/-- step_PAYLOAD stores its byte first (45_decoder.md R190). -/
theorem decodesTo_stepPayload (h : s.stepPayload b = .ok t) :
    s.frame.rxCount.toNat < s.params.maxPayload ∧ DecodesTo (s.storePayload b) t := by
  rw [State.stepPayload_eq] at h
  split at h
  · next hmax =>
    refine ⟨hmax, ?_⟩
    split at h
    · exact decodesTo_complete h
    · cases h; exact .withinFrame (s.storePayload b).frame rfl
  · cases h

/-- Everything DecodeStep can do (45_decoder.md R180): go on as the header's bytes have it, or store a payload byte first. -/
theorem State.decodeStep_cases (h : s.decodeStep b = .ok t) :
    DecodesTo s t ∨ (s.frame.rxCount.toNat < s.params.maxPayload ∧ DecodesTo (s.storePayload b) t) := by
  unfold State.decodeStep at h
  split at h
  · cases h; exact .inl (decodesTo_stepLenB0 s b)
  · cases h; exact .inl (decodesTo_stepLenB1 s b)
  · exact .inl (decodesTo_stepTypeB0 h)
  · exact .inl (decodesTo_stepTypeB1 h)
  · cases h; exact .inl (.withinFrame { s.frame with rxCsx := b.setWidth 16, phase := _ } rfl)
  · cases h; exact .inl (.withinFrame { s.frame with rxCsx := _, phase := .payload } rfl)
  · exact .inr (decodesTo_stepPayload h)

/-- Going on writes no payload byte, and keeps the count unless the frame ends. -/
theorem DecodesTo.pbuf_rxCount (h : DecodesTo s t) :
    t.pbuf = s.pbuf ∧ (t.sync.mode = .hunting ∨ t.frame.rxCount = s.frame.rxCount) := by
  cases h with
  | withinFrame f hcount => exact ⟨rfl, .inr hcount⟩
  | headerFail => exact ⟨rfl, .inl rfl⟩
  | checksumFail => exact ⟨rfl, .inl rfl⟩
  | packet p => exact ⟨rfl, .inl rfl⟩

/-! ## The payload store -/

/-- While HUNTING no byte writes the payload store (41_synchronizer.md R121). -/
theorem State.processByte_pbuf_of_hunting (hm : s.sync.mode = .hunting) (h : s.processByte b = .ok t) :
    t.pbuf = s.pbuf := by
  simp only [State.processByte, hm] at h
  obtain ⟨e, -, rfl⟩ := State.syncStep_eq_ok.1 h
  split <;> rfl

/-- IN_FRAME a byte writes at most PBUF[RX_COUNT], and counts it unless the frame ends (45_decoder.md R190). -/
theorem State.processByte_pbuf_of_inFrame (hm : s.sync.mode = .inFrame) (hmax : s.params.maxPayload ≤ 32767)
    (h : s.processByte b = .ok t) :
    (∀ a, a ≠ s.frame.rxCount.toNat → t.pbufByte a = s.pbufByte a) ∧
      (t.sync.mode = .hunting ∨ t.frame.rxCount = s.frame.rxCount ∨
        t.frame.rxCount.toNat = s.frame.rxCount.toNat + 1) := by
  simp only [State.processByte, hm] at h
  rcases State.decodeStep_cases h with hd | ⟨hlt, hd⟩
  · obtain ⟨hp, hc⟩ := hd.pbuf_rxCount
    exact ⟨fun a _ => by simp [hp], hc.imp_right .inl⟩
  · obtain ⟨hp, hc⟩ := hd.pbuf_rxCount
    have hsucc : (s.frame.rxCount + 1).toNat = s.frame.rxCount.toNat + 1 := by
      rw [BitVec.toNat_add]
      exact Nat.mod_eq_of_lt (show s.frame.rxCount.toNat + 1 < 2 ^ 16 by omega)
    refine ⟨fun a ha => ?_, hc.imp_right fun hc => .inr ((congrArg BitVec.toNat hc).trans hsucc)⟩
    simp [hp, State.storePayload, Memory.read_write_other _ _ _ _ ha]

/-- The place `a` of PBUF is out of reach of the next `n` bytes: before the bytes counted, behind what `n` bytes can
count, or no frame is in progress. -/
def State.PayloadOutOfReach (s : State) (n a : Nat) : Prop :=
  a < s.frame.rxCount.toNat ∨ s.frame.rxCount.toNat + n ≤ a ∨ s.sync.mode = .hunting

/-- A byte leaves alone what is out of reach, and it stays out of reach of the bytes behind it, but for a byte that
completes a marker. -/
theorem State.PayloadOutOfReach.processByte {n a : Nat} (ha : s.PayloadOutOfReach (n + 1) a)
    (hmax : s.params.maxPayload ≤ 32767) (h : s.processByte b = .ok t) :
    t.pbufByte a = s.pbufByte a ∧ (locks s t ∨ t.PayloadOutOfReach n a) := by
  cases hm : s.sync.mode with
  | hunting =>
    refine ⟨by simp [State.processByte_pbuf_of_hunting hm h], ?_⟩
    cases ht : t.sync.mode with
    | hunting => exact .inr (.inr (.inr ht))
    | inFrame => exact .inl ⟨hm, ht⟩
  | inFrame =>
    obtain ⟨hp, hc⟩ := State.processByte_pbuf_of_inFrame hm hmax h
    have ha : a < s.frame.rxCount.toNat ∨ s.frame.rxCount.toNat + (n + 1) ≤ a := by
      simpa [State.PayloadOutOfReach, hm] using ha
    refine ⟨hp a (by omega), .inr ?_⟩
    unfold State.PayloadOutOfReach
    rcases hc with hc | hc | hc
    · exact .inr (.inr hc)
    · rw [hc]; omega
    · omega

/-- Absorbing a burst leaves every place of PBUF alone that is out of its reach. -/
theorem absorb_pbufByte {data : List Byte} {a : Nat} {locked : Bool} (ha : s.PayloadOutOfReach data.length a)
    (hmax : s.params.maxPayload ≤ 32767) (h : absorb data s = .ok (t, locked)) : t.pbufByte a = s.pbufByte a := by
  induction data generalizing s with
  | nil => cases h; rfl
  | cons b data ih =>
    rw [absorb] at h
    split at h
    · cases h
    · next u hu =>
      obtain ⟨hp, hreach⟩ := ha.processByte hmax hu
      split at h
      · cases h; exact hp
      · next hlock =>
        have hparams : u.params = s.params := (byteFrame_processByte hu).1.params
        exact (ih (hreach.resolve_left hlock) (hparams ▸ hmax) h).trans hp

/-! ## RECEIVE -/

/-- A drained ring has its bytes as they were. -/
@[simp] theorem RingBuffer.drained_store (r : RingBuffer) (locked : Bool) : (r.drained locked).store = r.store := by
  cases locked <;> rfl

/-- The two stores behind a RECEIVE of a burst that fits. -/
theorem State.Inv.execReceive_stores (h : s.Inv) (hv : s.cfg.valid = true) {data : List Byte}
    (hl : data.length < s.params.ringCapacity) (ht : Machine.execReceive data s = .next t) :
    t.ring.store = storeBurst s.params.ringCapacity s.ring.wr data s.ring.store ∧
      ∀ a, s.PayloadOutOfReach data.length a → t.pbufByte a = s.pbufByte a := by
  obtain ⟨hrd, hwr⟩ := h.cursorsInRange
  obtain ⟨-, -, hmax⟩ := h.paramsLegal
  obtain ⟨u, locked, hu, rfl⟩ := (execReceive_eq_next_absorb hv h.ringDrained hrd hwr hl).1 ht
  exact ⟨RingBuffer.drained_store _ _, fun a ha => show u.pbufByte a = _ from absorb_pbufByte ha hmax hu⟩

end

/-- Settles O22: the burst is in the ring from WR on, each byte of it writes PBUF[RX_COUNT] at most, and an overflow
writes neither store. -/
theorem receiveFrameOnTheStores : Obligations.ReceiveFrameOnTheStores := by
  intro s t data h hv ht
  refine ⟨fun hl => ?_, fun hl a => ?_⟩
  · obtain ⟨hring, hpbuf⟩ := h.execReceive_stores hv hl ht
    refine ⟨fun i hi => ?_, fun a ha => ?_, hpbuf⟩
    · rw [State.ringByte_def, hring]
      exact read_storeBurst hl.le hi
    · rw [State.ringByte_def, hring]
      exact read_storeBurst_other ha
  · cases ht.symm.trans (execReceive_overflow hv h.ringDrained hl h.capacity_pos)
    exact ⟨rfl, rfl⟩

end Sys2Proof.Machine
end

section
/-! Records already on the output ports change nothing a byte does (10_state.md R30): with other records before them, a byte adds
the same. -/

namespace Sys2Proof.Machine

/-- The engine with the records `es` before those it has emitted. -/
def State.precede (s : State) (es : List PortEvent) : State := { s with outputs := es ++ s.outputs }

section
variable (s : State) (es : List PortEvent) (b : Byte)

@[simp] theorem State.precede_params : (s.precede es).params = s.params := rfl
@[simp] theorem State.precede_cfg : (s.precede es).cfg = s.cfg := rfl
@[simp] theorem State.precede_sync : (s.precede es).sync = s.sync := rfl
@[simp] theorem State.precede_frame : (s.precede es).frame = s.frame := rfl
@[simp] theorem State.precede_outputs : (s.precede es).outputs = es ++ s.outputs := rfl
@[simp] theorem State.precede_receivedPayload : (s.precede es).receivedPayload = s.receivedPayload := rfl

theorem State.precede_emitPacket (p : Packet) : (s.precede es).emitPacket p = (s.emitPacket p).precede es := by
  simp [emitPacket, emit, precede]

theorem State.precede_deliver : (s.precede es).deliver = s.deliver.map (·.precede es) := by
  simp only [deliver, precede_receivedPayload, precede_emitPacket]
  split <;> rfl

theorem State.precede_complete : (s.precede es).complete = s.complete.map (·.precede es) := by
  simp only [complete, precede_receivedPayload, precede_deliver]
  split
  · rfl
  · rw [apply_ite (Except.map _)]; rfl

theorem State.precede_typeDone : (s.precede es).typeDone = s.typeDone.map (·.precede es) := by
  rw [typeDone, typeDone, apply_ite (Except.map _), precede_deliver]
  rfl

theorem State.precede_lenDone : (s.precede es).lenDone = s.lenDone.precede es := by
  rw [lenDone, lenDone, apply_ite (precede · es)]
  rfl

theorem State.precede_decodeStep : (s.precede es).decodeStep b = (s.decodeStep b).map (·.precede es) := by
  have hlen (v : Word) : Except.ok (ε := Fault) (State.lenDone { s.precede es with frame := { s.frame with rxLen := v } }) =
      .ok (State.lenDone { s with frame := { s.frame with rxLen := v } } |>.precede es) :=
    congrArg _ (precede_lenDone { s with frame := { s.frame with rxLen := v } } es)
  have htype (v : Word) := precede_typeDone { s with frame := { s.frame with rxType := v } } es
  simp only [decodeStep, precede_frame]
  split
  · simp only [stepLenB0, precede_cfg]
    split
    · split
      · rfl
      · exact hlen _
    · split <;> rfl
  · simp only [stepLenB1, precede_frame]
    split
    · rfl
    · exact hlen _
  · simp only [stepTypeB0, precede_cfg]
    split
    · split
      · rfl
      · exact htype _
    · split <;> rfl
  · simp only [stepTypeB1, precede_frame]
    split
    · rfl
    · exact htype _
  · rfl
  · rfl
  · rw [stepPayload_eq, stepPayload_eq, apply_ite (Except.map _), apply_ite (Except.map _), ← precede_complete]
    rfl

theorem State.precede_processByte : (s.precede es).processByte b = (s.processByte b).map (·.precede es) := by
  simp only [processByte, syncStep, precede_sync, precede_cfg, precede_decodeStep]
  split
  · split
    · rfl
    · rw [apply_ite (Except.map _)]; rfl
  · rfl

/-- With other records before them, a burst is absorbed the same. -/
theorem absorb_precede (data : List Byte) :
    absorb data (s.precede es) = (absorb data s).map fun p => (p.1.precede es, p.2) := by
  induction data generalizing s with
  | nil => rfl
  | cons b data ih =>
    rw [absorb, absorb, State.precede_processByte]
    cases s.processByte b with
    | error f => rfl
    | ok t =>
      rw [apply_ite (Except.map _), ← ih t]
      rfl

theorem absorb_precede_eq_ok {s t : State} {es : List PortEvent} {data : List Byte} {locked : Bool} :
    absorb data (s.precede es) = .ok (t, locked) ↔ ∃ u, absorb data s = .ok (u, locked) ∧ t = u.precede es := by
  rw [absorb_precede]
  cases absorb data s with
  | error f => simp [Except.map]
  | ok p => simp [Except.map, Prod.ext_iff, eq_comm, and_comm]

end

end Sys2Proof.Machine
end

section
/-! Bursts, cut: where no marker is completed before the last byte, the bytes of several bursts do what one burst of them would,
but for the responses between (41_synchronizer.md R125, 45_decoder.md R182, 70_reset_and_hazards.md R273). -/

namespace Sys2Proof.Machine

/-! ## Absorbing two parts -/

/-- A burst in two parts: the first part completes a marker, or the second goes on from it. -/
theorem absorb_append_eq_ok {x y : List Byte} {s t : State} {locked : Bool} :
    absorb (x ++ y) s = .ok (t, locked) ↔
      (absorb x s = .ok (t, true) ∧ locked = true) ∨ ∃ u, absorb x s = .ok (u, false) ∧ absorb y u = .ok (t, locked) := by
  induction x generalizing s with
  | nil => simp [absorb]
  | cons b x ih =>
    rw [List.cons_append, absorb, absorb]
    cases s.processByte b with
    | error f => simp
    | ok u =>
      dsimp only
      split
      · simp [eq_comm]
      · exact ih

/-- The second part of a burst goes on where the first part left off. -/
theorem absorb_append {x y : List Byte} {s u t : State} {locked : Bool} (hx : absorb x s = .ok (u, false))
    (hy : absorb y u = .ok (t, locked)) : absorb (x ++ y) s = .ok (t, locked) :=
  absorb_append_eq_ok.2 (.inr ⟨u, hx, hy⟩)

/-- A completed marker discards the bytes behind it (41_synchronizer.md R130). -/
theorem absorb_append_of_locked {x : List Byte} {s u : State} (h : absorb x s = .ok (u, true)) (y : List Byte) :
    absorb (x ++ y) s = .ok (u, true) :=
  absorb_append_eq_ok.2 (.inl ⟨h, rfl⟩)

/-- A burst that completes a marker leaves the engine IN_FRAME at the start of a frame (41_synchronizer.md R121). -/
theorem absorb_locked {data : List Byte} {s t : State} (h : absorb data s = .ok (t, true)) :
    t.sync.mode = .inFrame ∧ t.frame = Frame.reset := by
  induction data generalizing s with
  | nil => cases h
  | cons b data ih =>
    rw [absorb] at h
    split at h
    · cases h
    · next u hu =>
      split at h
      · next hlock =>
        cases h
        obtain ⟨-, ⟨-, rfl⟩ | ⟨hno, -⟩⟩ := byteFrame_processByte hu
        · exact ⟨rfl, rfl⟩
        · exact absurd hlock hno
      · exact ih h

/-- A burst keeps the parameters and the configuration. -/
theorem absorb_params_cfg {data : List Byte} {s t : State} {locked : Bool} (h : absorb data s = .ok (t, locked)) :
    t.params = s.params ∧ t.cfg = s.cfg :=
  absorb_keeps (P := fun u => u.params = s.params ∧ u.cfg = s.cfg)
    (fun _ _ _ hs hp => ⟨(byteFrame_processByte hp).1.params.trans hs.1, (byteFrame_processByte hp).1.cfg.trans hs.2⟩)
    ⟨rfl, rfl⟩ h

/-- A burst keeps the invariant between bytes. -/
theorem State.ByteInv.afterBurst {data : List Byte} {s t : State} {locked : Bool} (h : s.ByteInv)
    (ha : absorb data s = .ok (t, locked)) : t.ByteInv :=
  absorb_keeps (fun _ _ _ hs hp => State.ByteInv.processByte hs hp) h ha

/-- The engine goes from `s` to `t` over all of `data`: no marker is completed before the last byte, so that no byte is
discarded. -/
def TakesAll (data : List Byte) (s t : State) : Prop :=
  ∃ locked, absorb data s = .ok (t, locked) ∧ (locked = true → ∃ u, absorb data.dropLast s = .ok (u, false))

theorem TakesAll.of_unlocked {data : List Byte} {s t : State} (h : absorb data s = .ok (t, false)) : TakesAll data s t :=
  ⟨false, h, nofun⟩

/-- Over two parts the engine takes the first and then all of the second. -/
theorem TakesAll.split {x y : List Byte} {s t : State} (h : TakesAll (x ++ y) s t) :
    ∃ u locked, absorb x s = .ok (u, locked) ∧ TakesAll y u t := by
  obtain ⟨locked, ha, hlast⟩ := h
  rcases absorb_append_eq_ok.1 ha with ⟨hx, rfl⟩ | ⟨u, hx, hy⟩
  · have hnil : y = [] := by
      by_contra hne
      obtain ⟨v, hv⟩ := hlast rfl
      rw [List.dropLast_append_of_ne_nil hne, absorb_append_of_locked hx] at hv
      cases hv
    exact ⟨t, true, hx, hnil ▸ .of_unlocked rfl⟩
  · refine ⟨u, false, hx, locked, hy, fun hlock => ?_⟩
    have hne : y ≠ [] := by
      rintro rfl
      cases hy
      cases hlock
    obtain ⟨v, hv⟩ := hlast hlock
    rw [List.dropLast_append_of_ne_nil hne] at hv
    rcases absorb_append_eq_ok.1 hv with ⟨-, h⟩ | ⟨u', hx', hv⟩
    · cases h
    · cases hx.symm.trans hx'
      exact ⟨v, hv⟩

/-! ## The same packets -/

theorem packetRecords_append (es fs : List PortEvent) : packetRecords (es ++ fs) = packetRecords es ++ packetRecords fs := by
  induction es with
  | nil => rfl
  | cons e es ih => cases e <;> simp [packetRecords, ih]

/-- The engines `s` and `u` have delivered the same packets, and differ in no more than dead state and what else they have
emitted. -/
structure SamePackets (s u : State) : Prop where
  packets : packetRecords u.outputs = packetRecords s.outputs
  visible : SameVisible { s with outputs := u.outputs } u

theorem SamePackets.refl (s : State) : SamePackets s s := ⟨rfl, sameVisible_iff.2 ⟨Alike.withFlags s s.flags, rfl⟩⟩

section
variable {s t u : State} {data : List Byte} {locked : Bool}

/-- A response at the end of a command, and the drained ring, make no difference. -/
theorem SamePackets.respond (h : SamePackets s u) (r : RingBuffer) (c : ResponseCode) :
    SamePackets s ((u.withRing r).respond c) := by
  obtain ⟨hp, hv⟩ := h
  refine ⟨?_, ⟨hv.params, hv.cfg, hv.sync, hv.frame, hv.flags, hv.cmdIn, hv.resetLine, rfl, hv.payload⟩⟩
  simpa [State.respond, State.emit, State.withRing, packetRecords_append, packetRecords] using hp

/-- What delivered the same packets as `s` delivered the same packets. -/
theorem SamePackets.of_common {v : State} (hu : SamePackets s u) (hv : SamePackets s v) : SamePackets u v := by
  obtain ⟨hpu, hu⟩ := hu
  obtain ⟨hpv, hv⟩ := hv
  exact ⟨hpv.trans hpu.symm, hu.params.symm.trans hv.params, hu.cfg.symm.trans hv.cfg, hu.sync.symm.trans hv.sync,
    hu.frame.symm.trans hv.frame, hu.flags.symm.trans hv.flags, hu.cmdIn.symm.trans hv.cmdIn,
    hu.resetLine.symm.trans hv.resetLine, rfl, fun i hi =>
      have hi : i < s.frame.rxCount.toNat := hu.frame ▸ hi
      (hu.payload i hi).symm.trans (hv.payload i hi)⟩

/-- A burst does the same to engines that have delivered the same packets. -/
theorem SamePackets.absorb (h : SamePackets s u) (ha : absorb data s = .ok (t, locked)) :
    ∃ v, absorb data u = .ok (v, locked) ∧ SamePackets t v := by
  obtain ⟨t0, h0, rfl⟩ := (absorb_precede_eq_ok (s := { s with outputs := [] }) (es := s.outputs)).1
    (by simpa [State.precede] using ha)
  have hu : Machine.absorb data { s with outputs := u.outputs } = .ok (t0.precede u.outputs, locked) := by
    have := (absorb_precede_eq_ok (es := u.outputs)).2 ⟨t0, h0, rfl⟩
    simpa [State.precede] using this
  obtain ⟨halike, hflags⟩ := sameVisible_iff.1 h.visible
  obtain ⟨v, hv, hst⟩ := halike.absorb hu
  have hout : v.outputs = u.outputs ++ t0.outputs := hst.alike.outputs
  refine ⟨v, hv, by simp [hout, packetRecords_append, h.packets], ?_⟩
  have := hst.sameVisible hflags
  rwa [State.precede, ← hout] at this

/-- RECEIVE between commands does to `u` what absorbing its burst does to `s`. -/
theorem SamePackets.execReceive (h : SamePackets s u) (hu : u.Inv) (hv : u.cfg.valid = true)
    (hl : data.length < u.params.ringCapacity) (ha : Machine.absorb data s = .ok (t, locked)) :
    ∃ v, exec (.receive data) u = .next v ∧ v.params = u.params ∧ SamePackets t v := by
  obtain ⟨v, hab, hsame⟩ := h.absorb ha
  obtain ⟨hrd, hwr⟩ := hu.cursorsInRange
  exact ⟨_, (execReceive_eq_next_absorb hv hu.ringDrained hrd hwr hl).2 ⟨v, locked, hab, rfl⟩, (absorb_params_cfg hab).1,
    hsame.respond _ _⟩

/-- Bursts one after another do to `u` what taking all their bytes does to `s` (70_reset_and_hazards.md R273). -/
theorem SamePackets.runCommands {bursts : List (List Byte)} (h : SamePackets s u) (hu : u.Inv) (hv : u.cfg.valid = true)
    (hl : ∀ w ∈ bursts, w.length < u.params.ringCapacity) (ha : TakesAll bursts.flatten s t) :
    ∃ v, Machine.runCommands (bursts.map .receive) u = .next v ∧ v.Inv ∧ v.params = u.params ∧ SamePackets t v := by
  induction bursts generalizing s u with
  | nil =>
    obtain ⟨_, ha, -⟩ := ha
    cases ha
    exact ⟨u, rfl, hu, rfl, h⟩
  | cons w bursts ih =>
    obtain ⟨s', locked, hw, hrest⟩ := ha.split
    obtain ⟨u', hex, hparams, hsame⟩ := h.execReceive hu hv (hl w List.mem_cons_self) hw
    obtain ⟨v, hrun, hinv, hparams', hv'⟩ := ih hsame (hu.exec hex) (exec_cfg hv hex ▸ hv)
      (fun x hx => hparams ▸ hl x (List.mem_cons_of_mem w hx)) hrest
    exact ⟨v, runCommands_cons_eq_next.2 ⟨u', hex, hrun⟩, hinv, hparams'.trans hparams, hv'⟩

end

/-- Settles O48: the second part goes on where the first left off, whatever was emitted between. -/
theorem cuttingABurstChangesNothing : Obligations.CuttingABurstChangesNothing := by
  intro s ta t2 a b h hv hl hta hphase ht2
  have hla : a.length < s.params.ringCapacity := by omega
  obtain ⟨u, locked, hu, hnext⟩ := h.exists_execReceive_eq_next hv hla
  cases hta.symm.trans hnext
  have hunlocked : locked = false := by
    cases locked with
    | false => rfl
    | true =>
      obtain ⟨hm, hf⟩ := absorb_locked hu
      rcases hphase with hm' | hp
      · cases hm.symm.trans hm'
      · exact absurd (congrArg Frame.phase hf) hp
  subst hunlocked
  obtain ⟨hparams, hcfg⟩ := absorb_params_cfg hu
  obtain ⟨t, locked, ht⟩ := ((h.byteInv hv).afterBurst hu).exists_absorb_eq_ok b
  obtain ⟨v, hex, -, hsame⟩ := ((SamePackets.refl u).respond _ _).execReceive (h.exec hta) (hcfg ▸ hv)
    (show b.length < u.params.ringCapacity by rw [hparams]; omega) ht
  cases hex.symm.trans ht2
  obtain ⟨t1, ht1, -, hsame1⟩ := (SamePackets.refl s).execReceive h hv (by simpa using hl) (absorb_append hu ht)
  have hboth := hsame1.of_common hsame
  exact ⟨t1, ht1, hboth.packets.symm, hboth.visible⟩

end Sys2Proof.Machine
end

section
/-! The marker matcher (41_synchronizer.md R121, R124): what the match count says of the bytes hunted, for every marker, and for
markers after which looking back one byte is enough. -/

namespace Sys2Proof.Machine

/-! ## The match count -/

/-- The match count after one byte (41_synchronizer.md R121), as a number, on the marker's own bytes. -/
def nextCount (mk : List Byte) (m : Nat) (b : Byte) : Nat :=
  if mk[m]? = some b then m + 1 else if mk[0]? = some b then 1 else 0

/-- The match count never passes the marker's length (41_synchronizer.md R122). -/
theorem nextCount_le {n m : Nat} (h : m < n) (mk : List Byte) (b : Byte) : nextCount mk m b ≤ n := by
  unfold nextCount
  split
  · exact h
  · split
    · exact Nat.one_le_of_lt h
    · exact Nat.zero_le n

/-- Where bytes matched by two beginnings of the marker end alike, the two expect the same next byte, so that a mismatch of the
longer is one of the shorter: looking back one byte loses no match. -/
def LookbackExact (mk : List Byte) : Prop :=
  ∀ j k : Nat, 1 ≤ j → j < k → k < mk.length → mk.take j <:+ mk.take k → mk[j]? = mk[k]?

/-- The condition of 41_synchronizer.md R124 leaves no two such beginnings. -/
theorem MarkerUnbordered.lookbackExact {mk : List Byte} (h : MarkerUnbordered mk) : LookbackExact mk := by
  intro j k hj hjk hk hs
  refine absurd ?_ (h k j (by omega) (by omega) hj hjk)
  have := List.suffix_iff_eq_drop.1 hs
  rwa [List.length_take, List.length_take, Nat.min_eq_left hk.le, Nat.min_eq_left (hjk.le.trans hk.le)] at this

/-- The match count `m` after hunting the bytes `done`, for the marker `mk`: the last `m` bytes are its first ones, and, where
looking back one byte is enough, no longer beginning of it ends there and it has not occurred. -/
structure Matched (mk done : List Byte) (m : Nat) : Prop where
  short : m < mk.length
  suffix : mk.take m <:+ done
  longest : LookbackExact mk → ∀ k, k < mk.length → mk.take k <:+ done → k ≤ m
  absent : LookbackExact mk → ¬ mk <:+: done

section
variable {mk done : List Byte} {m : Nat} {b : Byte}

/-- Hunting starts with nothing matched. -/
theorem matched_nil (h : 1 ≤ mk.length) : Matched mk [] 0 where
  short := h
  suffix := List.nil_suffix
  longest _ k hk hs := by
    rcases List.take_eq_nil_iff.1 (List.suffix_nil.1 hs) with h0 | rfl
    · exact h0.le
    · exact absurd hk (Nat.not_lt_zero k)
  absent _ hi := by
    rw [List.infix_nil.1 hi] at h
    exact absurd h (by decide)

/-- A beginning of the marker ends with `b` exactly where the one before it ended and expects `b`. -/
theorem take_succ_suffix_concat {j : Nat} (hj : j < mk.length) :
    mk.take (j + 1) <:+ done ++ [b] ↔ mk.take j <:+ done ∧ mk[j]? = some b := by
  rw [List.take_succ_eq_append_getElem hj, List.suffix_concat_iff, List.getElem?_eq_getElem hj]
  constructor
  · rintro (h | ⟨t, h, ht⟩)
    · exact absurd h (List.append_ne_nil_of_right_ne_nil _ (List.cons_ne_nil _ _))
    · obtain ⟨rfl, hb⟩ := List.append_inj' h rfl
      exact ⟨ht, by simpa using hb⟩
  · rintro ⟨hs, hb⟩
    cases hb
    exact .inr ⟨_, rfl, hs⟩

/-- The matched bytes after one more byte (41_synchronizer.md R121). -/
theorem Matched.nextCount_suffix (h : Matched mk done m) : mk.take (nextCount mk m b) <:+ done ++ [b] := by
  unfold nextCount
  split
  · next hb => exact (take_succ_suffix_concat h.short).2 ⟨h.suffix, hb⟩
  · split
    · next hb => exact (take_succ_suffix_concat (Nat.zero_lt_of_lt h.short)).2 ⟨List.nil_suffix, hb⟩
    · exact List.nil_suffix

/-- Where looking back one byte is enough, no longer beginning of the marker ends after one more byte. -/
theorem Matched.le_nextCount (h : Matched mk done m) (hmk : LookbackExact mk) {k : Nat} (hk : k ≤ mk.length)
    (hs : mk.take k <:+ done ++ [b]) : k ≤ nextCount mk m b := by
  cases k with
  | zero => exact Nat.zero_le _
  | succ j =>
    obtain ⟨hj, hb⟩ := (take_succ_suffix_concat hk).1 hs
    have hjm := h.longest hmk j hk hj
    unfold nextCount
    split
    · omega
    · next hmiss =>
      have hne : j ≠ m := fun he => hmiss (he ▸ hb)
      have hj0 : j = 0 := by
        by_contra h0
        have hsuf := List.suffix_of_suffix_length_le hj h.suffix (by simp; omega)
        exact hmiss ((hmk j m (by omega) (by omega) h.short hsuf).symm.trans hb)
      subst hj0
      rw [if_pos hb]

/-- One more byte completes the marker, or moves the match count. -/
theorem Matched.next (h : Matched mk done m) (b : Byte) :
    (nextCount mk m b = mk.length ∧ mk <:+ done ++ [b]) ∨
      (nextCount mk m b < mk.length ∧ Matched mk (done ++ [b]) (nextCount mk m b)) := by
  have hle : nextCount mk m b ≤ mk.length := nextCount_le h.short mk b
  have hs := h.nextCount_suffix (b := b)
  rcases Nat.lt_or_eq_of_le hle with hlt | heq
  · refine .inr ⟨hlt, hlt, hs, fun hmk k hk => h.le_nextCount hmk hk.le, fun hmk hi => ?_⟩
    rcases List.infix_concat_iff.1 hi with hi | hi
    · have := h.le_nextCount hmk le_rfl (by rwa [List.take_length])
      omega
    · exact h.absent hmk hi
  · rw [heq, List.take_length] at hs
    exact .inl ⟨heq, hs⟩

end

end Sys2Proof.Machine
end

section
/-! The synchronizer (41_synchronizer.md R121 to R130): what a hunting engine does with a byte and with a burst, by what the match
count says of the bytes hunted. -/

namespace Sys2Proof.Machine

/-! ## The marker's bytes -/

theorem ChannelConfig.length_markerBytes {c : ChannelConfig} (h : c.n.toNat ≤ 8) : c.markerBytes.length = c.n.toNat := by
  simp [markerBytes, h]

theorem ChannelConfig.markerBytes_getElem? {c : ChannelConfig} {i : Nat} (hi : i < c.n.toNat) (h : i < 8) :
    c.markerBytes[i]? = some c.marker[i] := by
  simp [markerBytes, hi, h]

/-! ## One byte while hunting -/

/-- HUNTING with match count `m`, all else as it was. -/
def State.huntAt (s : State) (m : Nat) : State := { s with sync := { mode := .hunting, m := BitVec.ofNat 4 m } }

section
variable {s : State}

theorem State.huntAt_m {m : Nat} (s : State) (h : m < 8) : (s.huntAt m).sync.m.toNat = m := by
  simp only [State.huntAt, BitVec.toNat_ofNat]
  omega

/-- While HUNTING the match count is below N, and N is at most 8 (41_synchronizer.md R122). -/
theorem State.ByteInv.matchCount (h : s.ByteInv) (hm : s.sync.mode = .hunting) :
    s.sync.m.toNat < s.cfg.n.toNat ∧ s.cfg.n.toNat ≤ 8 := by
  obtain ⟨-, h8, -, hlt⟩ := h.configInRange h.valid
  exact ⟨hlt hm, h8⟩

/-- The match count after one byte, on MARKER itself. -/
theorem State.ByteInv.nextCount_eq (h : s.ByteInv) (hm : s.sync.mode = .hunting) (hlt : s.sync.m.toNat < 8) (b : Byte) :
    nextCount s.cfg.markerBytes s.sync.m.toNat b =
      if b = s.cfg.marker[s.sync.m.toNat] then s.sync.m.toNat + 1 else if b = s.cfg.marker[0] then 1 else 0 := by
  obtain ⟨hn, -⟩ := h.matchCount hm
  rw [nextCount, ChannelConfig.markerBytes_getElem? hn hlt, ChannelConfig.markerBytes_getElem? (by omega) (by omega)]
  simp only [Option.some.injEq, eq_comm (b := b)]

/-- The match count of the model as a number: no match of eight bytes is continued. -/
theorem nextMatch_toNat {m : BitVec 4} (hm : m.toNat < 8) (expected first b : Byte) :
    (nextMatch m expected first b).toNat = if b = expected then m.toNat + 1 else if b = first then 1 else 0 := by
  have hsucc : (m + 1).toNat = m.toNat + 1 := by
    rw [BitVec.toNat_add]
    exact Nat.mod_eq_of_lt (show m.toNat + 1 < 2 ^ 4 by omega)
  rw [nextMatch, apply_ite BitVec.toNat, apply_ite BitVec.toNat, hsucc]
  rfl

/-- A byte while HUNTING moves the match count, or completes the marker (41_synchronizer.md R121). -/
theorem State.ByteInv.processByte_hunting (h : s.ByteInv) (hm : s.sync.mode = .hunting) (b : Byte) :
    s.processByte b = .ok (if nextCount s.cfg.markerBytes s.sync.m.toNat b = s.cfg.n.toNat then s.enterFrame
      else s.huntAt (nextCount s.cfg.markerBytes s.sync.m.toNat b)) := by
  obtain ⟨hn, h8⟩ := h.matchCount hm
  have hlt : s.sync.m.toNat < 8 := by omega
  rw [h.nextCount_eq hm hlt, ← nextMatch_toNat hlt, State.processByte, hm]
  refine State.syncStep_eq_ok.2 ⟨_, Vector.getElem?_eq_getElem hlt, ?_⟩
  simp only [← BitVec.toNat_eq, huntAt, BitVec.ofNat_toNat, BitVec.setWidth_eq]
  rw [hm]

/-- A hunting engine goes on from a byte with the match count moved, or stops at the byte that completes the marker. -/
theorem State.ByteInv.absorb_hunting (h : s.ByteInv) (hm : s.sync.mode = .hunting) (b : Byte) (bs : List Byte) :
    absorb (b :: bs) s = if nextCount s.cfg.markerBytes s.sync.m.toNat b = s.cfg.n.toNat then .ok (s.enterFrame, true)
      else absorb bs (s.huntAt (nextCount s.cfg.markerBytes s.sync.m.toNat b)) := by
  rw [absorb, h.processByte_hunting hm]
  dsimp only
  split
  · exact if_pos ⟨hm, rfl⟩
  · exact if_neg (by simp [huntAt])

/-- What a burst does to a hunting engine, by the bytes hunted before it: it moves the match count over all its bytes, or stops
where the marker has occurred. -/
theorem State.ByteInv.absorb_matched (h : s.ByteInv) (hm : s.sync.mode = .hunting) {done : List Byte}
    (hM : Matched s.cfg.markerBytes done s.sync.m.toNat) (data : List Byte) :
    (∃ m < 8, absorb data s = .ok (s.huntAt m, false) ∧ Matched s.cfg.markerBytes (done ++ data) m) ∨
      (absorb data s = .ok (s.enterFrame, true) ∧ s.cfg.markerBytes <:+: done ++ data) := by
  induction data generalizing s done with
  | nil =>
    obtain ⟨hn, h8⟩ := h.matchCount hm
    exact .inl ⟨s.sync.m.toNat, by omega, by simp [absorb, huntAt, ← hm], by simpa using hM⟩
  | cons b data ih =>
    obtain ⟨-, h8⟩ := h.matchCount hm
    have hlen := ChannelConfig.length_markerBytes h8
    have hstep := h.processByte_hunting hm b
    rw [h.absorb_hunting hm, List.append_cons]
    rcases hM.next b with ⟨heq, hocc⟩ | ⟨hlt, hM'⟩
    · rw [if_pos (heq.trans hlen)]
      exact .inr ⟨rfl, hocc.isInfix.trans (List.prefix_append _ _).isInfix⟩
    · have hne : nextCount s.cfg.markerBytes s.sync.m.toNat b ≠ s.cfg.n.toNat := by omega
      rw [if_neg hne] at hstep ⊢
      refine ih (h.processByte hstep) rfl ?_
      rwa [huntAt_m s (by omega)]

/-- So it does to one that has hunted nothing yet. -/
theorem State.ByteInv.absorb_unmatched (h : s.ByteInv) (hm : s.sync.mode = .hunting) (h0 : s.sync.m = 0)
    (data : List Byte) :
    (∃ m < 8, absorb data s = .ok (s.huntAt m, false) ∧ Matched s.cfg.markerBytes data m) ∨
      (absorb data s = .ok (s.enterFrame, true) ∧ s.cfg.markerBytes <:+: data) := by
  obtain ⟨hn, h8⟩ := h.matchCount hm
  refine h.absorb_matched hm (done := []) ?_ data
  rw [h0]
  exact matched_nil (by rw [ChannelConfig.length_markerBytes h8]; omega)

/-- For any marker, an engine that hunts from M = 0 hunts on over bytes without it. -/
theorem State.ByteInv.absorb_of_absent (h : s.ByteInv) (hm : s.sync.mode = .hunting) (h0 : s.sync.m = 0) {data : List Byte}
    (hno : ¬ s.cfg.markerBytes <:+: data) :
    ∃ m < 8, absorb data s = .ok (s.huntAt m, false) ∧ Matched s.cfg.markerBytes data m :=
  (h.absorb_unmatched hm h0 data).resolve_right fun ⟨_, hocc⟩ => hno hocc

/-- Where looking back one byte is enough, it stops at the marker. -/
theorem State.ByteInv.absorb_of_occurs (h : s.ByteInv) (hm : s.sync.mode = .hunting) (h0 : s.sync.m = 0) {data : List Byte}
    (hmk : LookbackExact s.cfg.markerBytes) (hocc : s.cfg.markerBytes <:+: data) :
    absorb data s = .ok (s.enterFrame, true) :=
  ((h.absorb_unmatched hm h0 data).resolve_left fun ⟨_, _, _, hM⟩ => hM.absent hmk hocc).1

/-- The bytes of the marker that are still to match complete it, and those behind them are discarded (41_synchronizer.md R130). -/
theorem State.ByteInv.absorb_rest_of_marker (h : s.ByteInv) (hm : s.sync.mode = .hunting) {pre post : List Byte}
    (hmk : s.cfg.markerBytes = pre ++ post) (hpre : s.sync.m.toNat = pre.length) (behind : List Byte) :
    absorb (post ++ behind) s = .ok (s.enterFrame, true) := by
  obtain ⟨hn, h8⟩ := h.matchCount hm
  have hlen := ChannelConfig.length_markerBytes h8
  induction post generalizing s pre with
  | nil =>
    rw [hmk, List.append_nil] at hlen
    omega
  | cons b post ih =>
    have hstep := h.processByte_hunting hm b
    have hnext : nextCount s.cfg.markerBytes s.sync.m.toNat b = (pre ++ [b]).length := by
      simp [nextCount, hmk, hpre]
    rw [List.cons_append, h.absorb_hunting hm]
    rw [hnext] at hstep ⊢
    split at hstep
    · next heq => exact if_pos heq
    · next hne =>
      rw [if_neg hne]
      have hle : (pre ++ [b]).length ≤ s.cfg.n.toNat := by simp [← hlen, hmk]
      have hh := h.processByte hstep
      have hpre' := huntAt_m s (m := (pre ++ [b]).length) (by omega)
      exact ih hh rfl (hmk.trans (List.append_cons pre b post)) hpre' (hh.matchCount rfl).1 h8 hlen

end

/-- Settles O35: the match count of the model, and that a one-byte burst always fits. -/
theorem huntingByteMovesTheMatchCount : Obligations.HuntingByteMovesTheMatchCount := by
  intro s b hlt h hv hm
  have hb := h.byteInv hv
  obtain ⟨hn, h8⟩ := hb.matchCount hm
  have hcap : [b].length < s.params.ringCapacity := h.paramsLegal.1.1
  obtain ⟨a, locked, ha, hnext⟩ := h.exists_execReceive_eq_next hv hcap
  rw [hb.absorb_hunting hm, hb.nextCount_eq hm hlt] at ha
  refine ⟨_, hnext, ?_⟩
  generalize hm' : (if b = s.cfg.marker[s.sync.m.toNat] then s.sync.m.toNat + 1 else if b = s.cfg.marker[0] then 1 else 0) =
    m' at ha ⊢
  have hle : m' ≤ s.cfg.n.toNat := by
    rw [← hm', ← hb.nextCount_eq hm hlt]
    exact nextCount_le hn _ b
  by_cases heq : m' = s.cfg.n.toNat
  · rw [if_pos heq] at ha
    cases ha
    exact ⟨fun _ => ⟨rfl, rfl, rfl⟩, fun hne => absurd heq hne, rfl, rfl, rfl, rfl, rfl⟩
  · rw [if_neg heq] at ha
    cases ha
    exact ⟨fun he => absurd he heq, fun _ => ⟨rfl, State.huntAt_m s (by omega), by omega⟩, h.huntingFrameIdle hm, rfl, rfl,
      rfl, rfl⟩

end Sys2Proof.Machine
end

section
/-! Bursts while hunting (41_synchronizer.md R124, R125, R130): where the engine locks, and what it delivers then. -/

namespace Sys2Proof.Machine

/-- What has delivered the same packets hunts with the same marker and the same match. -/
theorem SamePackets.matched {s u : State} {done : List Byte} {m : Nat} (h : SamePackets (s.huntAt m) u) (hlt : m < 8)
    (hM : Matched s.cfg.markerBytes done m) :
    u.sync.mode = .hunting ∧ Matched u.cfg.markerBytes done u.sync.m.toNat := by
  have hcfg : u.cfg = s.cfg := h.visible.cfg.symm
  have hsync : u.sync = (s.huntAt m).sync := h.visible.sync.symm
  exact ⟨by rw [hsync]; rfl, by rwa [hcfg, hsync, State.huntAt_m s hlt]⟩

/-- Bursts in which the marker does not occur leave the engine hunting, its match count that of all their bytes. -/
theorem State.Inv.runCommands_of_absent {s : State} {bursts : List (List Byte)} (h : s.Inv) (hv : s.cfg.valid = true)
    (hm : s.sync.mode = .hunting) (h0 : s.sync.m = 0) (hl : ∀ w ∈ bursts, w.length < s.params.ringCapacity)
    (hno : ¬ s.cfg.markerBytes <:+: bursts.flatten) :
    ∃ t m, runCommands (bursts.map .receive) s = .next t ∧ t.Inv ∧ t.params = s.params ∧ SamePackets (s.huntAt m) t ∧
      t.sync.mode = .hunting ∧ Matched t.cfg.markerBytes bursts.flatten t.sync.m.toNat := by
  obtain ⟨m, hlt, ha, hM⟩ := (h.byteInv hv).absorb_of_absent hm h0 hno
  obtain ⟨t, hrun, hinv, hparams, hsame⟩ := (SamePackets.refl s).runCommands h hv hl (.of_unlocked ha)
  exact ⟨t, m, hrun, hinv, hparams, hsame, hsame.matched hlt hM⟩

/-- A run of commands in two parts. -/
theorem runCommands_append_eq_next {is js : List Instr} {s t u : State} (hs : runCommands is s = .next t)
    (ht : runCommands js t = .next u) : runCommands (is ++ js) s = .next u := by
  induction is generalizing s with
  | nil => cases hs; exact ht
  | cons i is ih =>
    obtain ⟨s', hi, hs'⟩ := runCommands_cons_eq_next.1 hs
    exact runCommands_cons_eq_next.2 ⟨s', hi, ih hs'⟩

/-- Settles O37: the last M bytes hunted are the first M of the marker, so that M reaches N only where it occurs. -/
theorem noLockWithoutTheMarker : Obligations.NoLockWithoutTheMarker := by
  intro s bursts h hv hm h0 hl hno
  obtain ⟨t, m, hrun, -, -, -, hmode, -⟩ := h.runCommands_of_absent hv hm h0 hl hno
  exact ⟨t, hrun, hmode⟩

/-- Settles O36: with such a marker no longer match than M ends where the engine hunts, so that M reaches N wherever it
occurs. -/
theorem unborderedMarkerIsFoundExactly : Obligations.UnborderedMarkerIsFoundExactly := by
  intro s bursts last h hv hm h0 hmk hl hno
  obtain ⟨t, m, hrun, hinv, hparams, hsame, hmode, hM⟩ := h.runCommands_of_absent hv hm h0
    (fun w hw => hl w (List.mem_append_left _ hw)) hno
  have hcfg : t.cfg = s.cfg := hsame.visible.cfg.symm
  have hvt : t.cfg.valid = true := hcfg ▸ hv
  have hlast : last.length < t.params.ringCapacity := hparams ▸ hl last (by simp)
  obtain ⟨a, locked, ha, hnext⟩ := hinv.exists_execReceive_eq_next hvt hlast
  refine ⟨(a.withRing ((t.writtenRing last).drained locked)).respond .ok, ?_, ?_⟩
  · rw [List.map_append]
    exact runCommands_append_eq_next hrun (runCommands_cons_eq_next.2 ⟨_, hnext, rfl⟩)
  · show a.sync.mode = .inFrame ↔ _
    rw [← hcfg] at hmk ⊢
    rcases (hinv.byteInv hvt).absorb_matched hmode hM last with ⟨m', -, hab, hM'⟩ | ⟨hab, hocc⟩
    · cases ha.symm.trans hab
      exact iff_of_false nofun (hM'.absent hmk.lookbackExact)
    · cases ha.symm.trans hab
      exact iff_of_true rfl hocc

/-- Settles O39: from M = 0 each byte of the marker continues the match, and its last one discards what is behind it. -/
theorem bytesBehindTheMarkerAreLost : Obligations.BytesBehindTheMarkerAreLost := by
  intro s behind h hv hm h0 hl
  have hb := h.byteInv hv
  have hlen := ChannelConfig.length_markerBytes (hb.matchCount hm).2
  have ha := hb.absorb_rest_of_marker hm (pre := []) (post := s.cfg.markerBytes) rfl (by simp [h0]) behind
  obtain ⟨hrd, hwr⟩ := h.cursorsInRange
  exact ⟨_, (execReceive_eq_next_absorb hv h.ringDrained hrd hwr (by simp [hlen, hl])).2 ⟨_, _, ha, rfl⟩, rfl, rfl, rfl, rfl,
    rfl, rfl, rfl⟩

/-- Looking back one byte is enough for a marker of equal bytes, bordered as it is. -/
theorem lookbackExact_replicate (n : Nat) (b : Byte) : LookbackExact (List.replicate n b) := by
  intro j k _ hjk hk _
  rw [List.length_replicate] at hk
  simp [hk, hjk.trans hk]

/-- Refutes O38: AA AA AA fails the condition of 41_synchronizer.md R124, for its beginning AA AA has the border AA, and is
never missed, for every beginning of it expects AA next. -/
theorem not_everyBorderedMarkerIsMissedSomewhere : ¬ Obligations.EveryBorderedMarkerIsMissedSomewhere := by
  intro h
  have hbordered : ¬ MarkerUnbordered (List.replicate 3 0xAA#8) := fun hu =>
    hu 2 1 (by decide) (by decide) (by decide) (by decide) (by decide)
  obtain ⟨s, t, w, hs, hv, hmk, hm, h0, hl, hocc, hnext, hhunting⟩ := h _ (by decide) (by decide) hbordered
  have ha := (hs.byteInv hv).absorb_of_occurs hm h0 (hmk ▸ lookbackExact_replicate 3 _) (hmk ▸ hocc)
  obtain ⟨hrd, hwr⟩ := hs.cursorsInRange
  have hlock := (execReceive_eq_next_absorb hv hs.ringDrained hrd hwr hl).2 ⟨_, _, ha, rfl⟩
  cases hnext.symm.trans hlock
  cases hhunting

end Sys2Proof.Machine
end

section
/-! The decoder on the wire format (30_encoding.md R89 to R93, 45_decoder.md R183 to R192): what the bytes behind the marker of a
valid frame do to an engine at the start of a frame, field by field. -/

namespace Sys2Proof.Machine

/-! ## Varints and checksums of the wire format -/

theorem varintDecodeOne_ofNat {v : Nat} (h : v < 128) : varintDecodeOne (BitVec.ofNat 8 v) = some (BitVec.ofNat 16 v) := by
  have hbit : ¬ (BitVec.ofNat 8 v).getLsbD 7 = true := by
    rw [getLsbD_iff_div_mod, BitVec.toNat_ofNat]
    omega
  rw [varintDecodeOne, if_neg hbit, Option.some.injEq]
  apply BitVec.eq_of_toNat_eq
  simp only [BitVec.toNat_setWidth, BitVec.toNat_ofNat]
  omega

/-- The first byte of a two-byte varint decodes as a one-byte varint does (42_varint.md R145, R146). -/
theorem varintDecodeTwoFirst_ofNat {v : Nat} (h : v < 128) :
    varintDecodeTwoFirst (BitVec.ofNat 8 v) = some (BitVec.ofNat 16 v) := varintDecodeOne_ofNat h

theorem varintDecodeTwoSecond_ofNat {v : Nat} (h : 128 ≤ v) (hmax : v ≤ 32767) :
    varintDecodeTwoSecond (BitVec.ofNat 16 (v % 128)) (BitVec.ofNat 8 (v / 128)) = some (BitVec.ofNat 16 v) := by
  have hne : BitVec.ofNat 8 (v / 128) ≠ 0#8 := fun h0 => by
    have := congrArg BitVec.toNat h0
    simp only [BitVec.toNat_ofNat] at this
    omega
  rw [varintDecodeTwoSecond, if_neg hne, Option.some.injEq]
  apply BitVec.eq_of_toNat_eq
  simp only [BitVec.toNat_add, BitVec.toNat_mul, BitVec.toNat_setWidth, BitVec.toNat_ofNat]
  omega

theorem sumFrom_toNat (w : Word) (p : List Byte) :
    (sumFrom w p).toNat = (w.toNat + (p.map fun b => b.toNat).sum) % 65536 := by
  induction p generalizing w with
  | nil => exact (Nat.mod_eq_of_lt w.isLt).symm
  | cons b p ih =>
    have := b.isLt
    rw [sumFrom, ih, List.map_cons, List.sum_cons, BitVec.toNat_add, BitVec.toNat_setWidth]
    omega

/-- Checksum16 is the sum of the wire format (43_checksum.md R160). -/
theorem checksum16_toNat (p : List Byte) : (checksum16 p).toNat = wireSum p := by
  rw [checksum16, sumFrom_toNat]
  simp [wireSum]

/-- Two checksum bytes, low byte first, make up the sum (45_decoder.md R189). -/
theorem lowByte_or_highByte {v : Nat} (h : v < 65536) :
    BitVec.ofNat 16 (v % 256) ||| (BitVec.ofNat 8 (v / 256)).setWidth 16 <<< 8 = BitVec.ofNat 16 v := by
  apply BitVec.eq_of_toNat_eq
  have hshift : ((BitVec.ofNat 8 (v / 256)).setWidth 16 <<< 8).toNat = (v / 256) <<< 8 := by
    simp only [BitVec.toNat_shiftLeft, BitVec.toNat_setWidth, BitVec.toNat_ofNat, Nat.shiftLeft_eq]
    omega
  have hlow : (BitVec.ofNat 16 (v % 256)).toNat = v % 256 := by
    rw [BitVec.toNat_ofNat]
    omega
  rw [BitVec.toNat_or, hshift, hlow, Nat.or_comm, ← Nat.shiftLeft_add_eq_or_of_lt (i := 8) (by omega), Nat.shiftLeft_eq,
    BitVec.toNat_ofNat]
  omega

/-- RX_CSX once the checksum field of `p` is received (45_decoder.md R189). -/
def receivedChecksum (p : List Byte) : Word :=
  BitVec.ofNat 16 (if p.length < 32 then wireSum p % 256 else wireSum p)

/-- The checksum field of a payload matches it (43_checksum.md R163). -/
theorem csMatch_receivedChecksum (p : List Byte) : csMatch p.length (checksum16 p) (receivedChecksum p) = true := by
  have hlt : wireSum p < 65536 := Nat.mod_lt _ (by decide)
  have hsum := checksum16_toNat p
  unfold csMatch receivedChecksum
  split
  · rfl
  · next h0 =>
    split
    · next h1 =>
      have hshort := (csWidth_eq_one_iff.1 h1).2
      rw [if_pos hshort, decide_eq_true_eq]
      apply BitVec.eq_of_toNat_eq
      rw [loByte_toNat, loByte_toNat, hsum, BitVec.toNat_ofNat]
      omega
    · next h1 =>
      have hpos : p.length ≠ 0 := fun hl => h0 (by rw [hl]; rfl)
      have hlong : ¬ p.length < 32 := fun hshort =>
        h1 (csWidth_eq_one_iff.2 ⟨Nat.one_le_iff_ne_zero.2 hpos, hshort⟩)
      rw [if_neg hlong, decide_eq_true_eq]
      apply BitVec.eq_of_toNat_eq
      rw [hsum, BitVec.toNat_ofNat]
      omega

/-! ## The header -/

/-- The engine with another frame in progress. -/
def State.withFrame (s : State) (f : Frame) : State := { s with frame := f }

section
variable {s t u : State} {b b' : Byte}

/-- IN_FRAME a byte that the decoder takes completes no marker. -/
theorem absorb_inFrame (hm : s.sync.mode = .inFrame) (h : s.decodeStep b = .ok t) (bs : List Byte) :
    absorb (b :: bs) s = absorb bs t := by
  have hp : s.processByte b = .ok t := by
    rw [State.processByte, hm]
    exact h
  rw [absorb, hp]
  exact if_neg (by simp [hm])

theorem absorb_oneByte (hm : s.sync.mode = .inFrame) (h : s.decodeStep b = .ok t) : absorb [b] s = .ok (t, false) :=
  absorb_inFrame hm h []

theorem absorb_twoBytes {f : Frame} (hm : s.sync.mode = .inFrame) (h : s.decodeStep b = .ok (s.withFrame f))
    (h' : (s.withFrame f).decodeStep b' = .ok t) : absorb [b, b'] s = .ok (t, false) :=
  (absorb_inFrame hm h [b']).trans (absorb_oneByte hm h')

/-- LenDone on a length within MAX_PAYLOAD (45_decoder.md R185). -/
theorem State.lenDone_of_le {v : Nat} (hlegal : u.params.maxPayload ≤ 32767) (hl : u.frame.rxLen = BitVec.ofNat 16 v)
    (hv : v ≤ u.params.maxPayload) : u.lenDone = u.setPhase .typeB0 := by
  rw [lenDone, if_neg]
  rw [hl, BitVec.toNat_ofNat]
  omega

/-- The length field (45_decoder.md R183 to R185). -/
theorem absorb_lengthField {v : Nat} (hm : s.sync.mode = .inFrame) (hp : s.frame.phase = .lenB0)
    (hform : s.cfg.lenForm = formOfValue v) (hlegal : s.params.maxPayload ≤ 32767) (hmax : v ≤ s.params.maxPayload) :
    absorb (wireVarint v) s =
      .ok (s.withFrame { s.frame with rxLen := BitVec.ofNat 16 v, phase := .typeB0 }, false) := by
  have hdone (p : Phase) : (s.withFrame { s.frame with rxLen := BitVec.ofNat 16 v, phase := p }).lenDone =
      s.withFrame { s.frame with rxLen := BitVec.ofNat 16 v, phase := .typeB0 } :=
    State.lenDone_of_le hlegal rfl hmax
  unfold wireVarint
  unfold formOfValue at hform
  split
  · next hv =>
    rw [if_pos hv] at hform
    refine absorb_oneByte hm ?_
    simp only [State.decodeStep, State.stepLenB0, hp, hform, varintDecodeOne_ofNat hv, ← hdone .lenB0]
    rw [State.withFrame, ← hp]
  · next hv =>
    rw [if_neg hv] at hform
    refine absorb_twoBytes (f := { s.frame with rxLen := BitVec.ofNat 16 (v % 128), phase := .lenB1 }) hm ?_ ?_
    · simp only [State.decodeStep, State.stepLenB0, hp, hform,
        varintDecodeTwoFirst_ofNat (Nat.mod_lt v (by decide : 128 > 0))]
      rfl
    · simp only [State.decodeStep, State.stepLenB1, State.withFrame,
        varintDecodeTwoSecond_ofNat (Nat.le_of_not_lt hv) (hmax.trans hlegal)]
      exact congrArg _ (hdone .lenB1)

/-- The engine behind a type field (45_decoder.md R188): a frame of length 0 is delivered, another goes on. -/
def State.typed (s : State) (v : Word) : State :=
  if s.frame.rxLen = 0#16 then (s.emitPacket { chan := s.cfg.chanId, type := v, payload := [] }).endFrame
  else s.withFrame { s.frame with rxType := v, phase := .csB0 }

theorem State.typeDone_withFrame (s : State) (v : Word) (p : Phase) :
    (s.withFrame { s.frame with rxType := v, phase := p }).typeDone = .ok (s.typed v) := by
  unfold typeDone typed
  by_cases h0 : s.frame.rxLen = 0#16
  · refine (if_pos h0).trans ((deliver_eq_ok.2 ⟨[], ?_, rfl⟩).trans (congrArg _ (if_pos h0).symm))
    simp [receivedPayload, withFrame, h0, readCells]
  · exact (if_neg h0).trans (congrArg _ (if_neg h0).symm)

/-- The type field (45_decoder.md R186 to R188). -/
theorem absorb_typeField {v : Nat} (hm : s.sync.mode = .inFrame) (hp : s.frame.phase = .typeB0)
    (hform : s.cfg.typeForm = formOfValue v) (hmax : v ≤ 32767) :
    absorb (wireVarint v) s = .ok (s.typed (BitVec.ofNat 16 v), false) := by
  unfold wireVarint
  unfold formOfValue at hform
  split
  · next hv =>
    rw [if_pos hv] at hform
    refine absorb_oneByte hm ?_
    simp only [State.decodeStep, State.stepTypeB0, hp, hform, varintDecodeOne_ofNat hv, ← s.typeDone_withFrame _ .typeB0]
    rw [State.withFrame, ← hp]
  · next hv =>
    rw [if_neg hv] at hform
    refine absorb_twoBytes (f := { s.frame with rxType := BitVec.ofNat 16 (v % 128), phase := .typeB1 }) hm ?_ ?_
    · simp only [State.decodeStep, State.stepTypeB0, hp, hform,
        varintDecodeTwoFirst_ofNat (Nat.mod_lt v (by decide : 128 > 0))]
      rfl
    · simp only [State.decodeStep, State.stepTypeB1, State.withFrame,
        varintDecodeTwoSecond_ofNat (Nat.le_of_not_lt hv) hmax]
      exact s.typeDone_withFrame _ .typeB1

/-- The checksum field of a payload that is not empty (45_decoder.md R189). -/
theorem absorb_checksumField {p : List Byte} (hm : s.sync.mode = .inFrame) (hp : s.frame.phase = .csB0) (hne : p ≠ [])
    (hl : s.frame.rxLen.toNat = p.length) :
    absorb (wireChecksum p) s =
      .ok (s.withFrame { s.frame with rxCsx := receivedChecksum p, phase := .payload }, false) := by
  have hpos : p.length ≠ 0 := fun h0 => hne (List.length_eq_zero_iff.1 h0)
  have hlt : wireSum p < 65536 := Nat.mod_lt _ (by decide)
  have hlo : (BitVec.ofNat 8 (wireSum p % 256)).setWidth 16 = BitVec.ofNat 16 (wireSum p % 256) := by
    apply BitVec.eq_of_toNat_eq
    simp only [BitVec.toNat_setWidth, BitVec.toNat_ofNat]
    omega
  rw [wireChecksum, if_neg hpos]
  split
  · next hshort =>
    refine absorb_oneByte hm ?_
    have hw : csWidth s.frame.rxLen.toNat = 1 := csWidth_eq_one_iff.2 (by omega)
    simp only [State.decodeStep, State.stepCsB0, hp, hw, if_pos, hlo, receivedChecksum, hshort]
    rfl
  · next hlong =>
    have hw : csWidth s.frame.rxLen.toNat ≠ 1 := fun h1 => by
      have := csWidth_eq_one_iff.1 h1
      omega
    refine absorb_twoBytes (f := { s.frame with rxCsx := BitVec.ofNat 16 (wireSum p % 256), phase := .csB1 }) hm ?_ ?_
    · simp only [State.decodeStep, State.stepCsB0, hp, hw, hlo]
      rfl
    · simp only [State.decodeStep, State.stepCsB1, State.withFrame, lowByte_or_highByte hlt, receivedChecksum, hlong]
      rfl

end

/-! ## The payload -/

/-- The bytes `got` of a payload are received and stored, the bytes `rest` of it are to come, and its checksum field was that of
the whole. -/
structure State.Receiving (s : State) (got rest : List Byte) : Prop where
  mode : s.sync.mode = .inFrame
  phase : s.frame.phase = .payload
  count : s.frame.rxCount.toNat = got.length
  len : s.frame.rxLen.toNat = (got ++ rest).length
  csx : s.frame.rxCsx = receivedChecksum (got ++ rest)
  written : ∀ (i : Nat) (h : i < got.length), s.pbufByte i = some got[i]
  fits : (got ++ rest).length ≤ s.params.maxPayload

section
variable {s : State} {got rest : List Byte} {b : Byte}

/-- A payload byte is stored behind those received (45_decoder.md R190). -/
theorem State.Receiving.storePayload (h : s.Receiving got (b :: rest)) :
    (s.storePayload b).Receiving (got ++ [b]) rest where
  mode := h.mode
  phase := h.phase
  count := by
    have hlen := h.len
    have hlt := s.frame.rxLen.isLt
    have hcount := h.count
    simp only [List.length_append, List.length_cons] at hlen
    have hsucc : (s.frame.rxCount + 1).toNat = s.frame.rxCount.toNat + 1 := by
      rw [BitVec.toNat_add]
      exact Nat.mod_eq_of_lt (show s.frame.rxCount.toNat + 1 < 2 ^ 16 by omega)
    rw [List.length_append, List.length_singleton, ← hcount]
    exact hsucc
  len := by rw [← List.append_cons]; exact h.len
  csx := by rw [← List.append_cons]; exact h.csx
  written i hi := by
    rcases Nat.lt_or_eq_of_le (Nat.le_of_lt_succ (by simpa using hi)) with hlt | rfl
    · have hne : i ≠ s.frame.rxCount.toNat := by
        have := h.count
        omega
      simpa [State.storePayload, Memory.read_write_other _ _ _ _ hne, hlt] using h.written i hlt
    · simp [State.storePayload, h.count, Memory.read_write_same]
  fits := by rw [← List.append_cons]; exact h.fits

/-- Once every byte of it is received, the payload is read back. -/
theorem State.Receiving.receivedPayload (h : s.Receiving got []) : s.receivedPayload = .ok got := by
  have hlen := h.len
  have hfits := h.fits
  rw [List.append_nil] at hlen hfits
  exact readCells_eq_ok.2 ⟨hlen.symm, fun k hk => by
    rw [Nat.zero_add]
    exact ⟨hk.trans_le hfits, h.written k hk⟩⟩

/-- The payload bytes to come (45_decoder.md R190 to R192): the last one delivers the packet. -/
theorem State.Receiving.absorb (h : s.Receiving got rest) (hne : rest ≠ []) : ∃ m : Memory,
    Machine.absorb rest s = .ok ((State.emitPacket { s with pbuf := m }
      { chan := s.cfg.chanId, type := s.frame.rxType, payload := got ++ rest }).endFrame, false) := by
  induction rest generalizing s got with
  | nil => exact absurd rfl hne
  | cons b rest ih =>
    have hlen := h.len
    have hfits := h.fits
    have hs := h.storePayload
    have hcount := hs.count
    simp only [List.length_append, List.length_cons] at hlen hfits
    have hdecode : s.decodeStep b =
        if s.frame.rxCount + 1 = s.frame.rxLen then (s.storePayload b).complete else .ok (s.storePayload b) := by
      simp only [State.decodeStep, h.phase, State.stepPayload_eq]
      exact if_pos (by have := h.count; omega)
    by_cases hrest : rest = []
    · subst hrest
      have hlast : s.frame.rxCount + 1 = s.frame.rxLen :=
        BitVec.eq_of_toNat_eq (hcount.trans (by simpa using hlen.symm))
      have hmatch : csMatch (s.storePayload b).frame.rxLen.toNat (checksum16 (got ++ [b]))
          (s.storePayload b).frame.rxCsx = true := by
        rw [hs.len, hs.csx, List.append_nil]
        exact csMatch_receivedChecksum _
      rw [if_pos hlast] at hdecode
      have hcomplete := State.complete_eq_ok.2 ⟨_, hs.receivedPayload, (if_pos hmatch).symm⟩
      exact ⟨(s.storePayload b).pbuf, absorb_oneByte h.mode (hdecode.trans hcomplete)⟩
    · have hmore : s.frame.rxCount + 1 ≠ s.frame.rxLen := fun he => by
        have hpos := List.length_pos_iff.2 hrest
        have := hcount.symm.trans (congrArg BitVec.toNat he)
        simp only [List.length_append, List.length_singleton] at this
        omega
      rw [if_neg hmore] at hdecode
      obtain ⟨m, hm⟩ := ih hs hrest
      rw [List.append_cons]
      exact ⟨m, (absorb_inFrame h.mode hdecode rest).trans hm⟩

end

/-! ## The frame -/

/-- The header of an empty payload delivers its packet (45_decoder.md R188). -/
theorem State.typed_of_empty {s : State} (h0 : s.frame.rxLen = 0#16) (v : Word) :
    s.typed v = (s.emitPacket { chan := s.cfg.chanId, type := v, payload := [] }).endFrame :=
  if_pos h0

/-- The header of another payload goes on to its checksum field (45_decoder.md R188). -/
theorem State.typed_of_nonempty {s : State} (h0 : s.frame.rxLen ≠ 0#16) (v : Word) :
    s.typed v = s.withFrame { s.frame with rxType := v, phase := .csB0 } :=
  if_neg h0

/-- What follows the marker of a valid frame delivers its packet and ends the frame (45_decoder.md R198). -/
theorem absorb_wireBody {s : State} {type : Word} {p : List Byte} (hm : s.sync.mode = .inFrame)
    (hf : s.frame = Frame.reset) (hlegal : s.params.maxPayload ≤ 32767) (hp : p.length ≤ s.params.maxPayload)
    (ht : type.toNat ≤ 32767) (hlen : s.cfg.lenForm = formOfValue p.length)
    (htype : s.cfg.typeForm = formOfValue type.toNat) : ∃ m : Memory,
    absorb (wireBody type.toNat p) s = .ok ((State.emitPacket { s with pbuf := m }
      { chan := s.cfg.chanId, type := type, payload := p }).endFrame, false) := by
  have hphase : s.frame.phase = .lenB0 := congrArg Frame.phase hf
  have h1 := absorb_lengthField hm hphase hlen hlegal hp
  generalize hs1 : s.withFrame { s.frame with rxLen := BitVec.ofNat 16 p.length, phase := .typeB0 } = s1 at h1
  have hlen1 : s1.frame.rxLen.toNat = p.length := by
    rw [← hs1]
    exact Nat.mod_eq_of_lt (by omega)
  have hm1 : s1.sync.mode = .inFrame := by rw [← hs1]; exact hm
  have h2 := absorb_typeField (s := s1) (v := type.toNat) hm1 (by rw [← hs1]; rfl) (by rw [← hs1]; exact htype) ht
  rw [BitVec.ofNat_toNat, BitVec.setWidth_eq] at h2
  by_cases hne : p = []
  · subst hne
    rw [State.typed_of_empty (BitVec.eq_of_toNat_eq hlen1)] at h2
    refine ⟨s.pbuf, ?_⟩
    subst hs1
    rw [wireBody, wireChecksum, if_pos List.length_nil, List.append_nil, List.append_nil]
    exact absorb_append h1 h2
  · have h0 : s1.frame.rxLen ≠ 0#16 := fun h0 =>
      hne (List.length_eq_zero_iff.1 (hlen1.symm.trans (congrArg BitVec.toNat h0)))
    rw [State.typed_of_nonempty h0] at h2
    have h3 := absorb_checksumField (s := s1.withFrame { s1.frame with rxType := type, phase := .csB0 }) hm1 rfl hne hlen1
    have hr : State.Receiving
        (s1.withFrame { s1.frame with rxType := type, rxCsx := receivedChecksum p, phase := .payload }) [] p :=
      ⟨hm1, rfl, by subst hs1; simp [State.withFrame, hf, Frame.reset], hlen1, rfl, nofun, by subst hs1; exact hp⟩
    obtain ⟨m, h4⟩ := hr.absorb hne
    refine ⟨m, ?_⟩
    subst hs1
    exact absorb_append (absorb_append (absorb_append h1 h2) h3) h4

end Sys2Proof.Machine
end

section
/-! Exactly one frame (41_synchronizer.md R132): the noise before a frame is hunted over, its marker locks the engine, its body
delivers the packet, and the noise behind it is hunted over again. -/

namespace Sys2Proof.Machine

/-- Where a marker in front of `body` occurs nowhere earlier, it does not occur before its own last byte. -/
theorem not_infix_dropLast {mk noise body : List Byte} (hmk : mk ≠ [])
    (hfirst : ∀ k, k < noise.length → ¬ mk <+: (noise ++ (mk ++ body)).drop k) : ¬ mk <:+: (noise ++ mk).dropLast := by
  rintro ⟨x, y, hxy⟩
  obtain ⟨z, hz⟩ := List.dropLast_prefix (noise ++ mk)
  have hpos := List.length_pos_iff.2 hmk
  have hk : x.length < noise.length := by
    have := congrArg List.length hxy
    simp only [List.length_append, List.length_dropLast] at this
    omega
  refine hfirst x.length hk ⟨y ++ z ++ body, ?_⟩
  have hall : noise ++ (mk ++ body) = x ++ (mk ++ (y ++ z ++ body)) := by
    rw [← List.append_assoc, ← hz, ← hxy]
    simp only [List.append_assoc]
  rw [hall, List.drop_left]

/-- Hunting from M = 0 over noise and a marker that looking back one byte is enough for, the engine locks on the marker's last
byte. -/
theorem State.ByteInv.takesAll_marker {s : State} {noise : List Byte} (h : s.ByteInv) (hm : s.sync.mode = .hunting)
    (h0 : s.sync.m = 0) (hmk : LookbackExact s.cfg.markerBytes)
    (hno : ¬ s.cfg.markerBytes <:+: (noise ++ s.cfg.markerBytes).dropLast) :
    TakesAll (noise ++ s.cfg.markerBytes) s s.enterFrame := by
  obtain ⟨m, -, hbefore, -⟩ := h.absorb_of_absent hm h0 hno
  exact ⟨true, h.absorb_of_occurs hm h0 hmk (List.suffix_append _ _).isInfix, fun _ => ⟨_, hbefore⟩⟩

/-- Behind its marker, a valid frame delivers its packet, and noise without the marker is hunted over. -/
theorem State.ByteInv.takesAll_body {s : State} {type : Word} {p noise : List Byte} (h : s.ByteInv)
    (hm : s.sync.mode = .inFrame) (hf : s.frame = Frame.reset) (hp : p.length ≤ s.params.maxPayload)
    (ht : type.toNat ≤ 32767) (hlen : s.cfg.lenForm = formOfValue p.length)
    (htype : s.cfg.typeForm = formOfValue type.toNat) (hno : ¬ s.cfg.markerBytes <:+: noise) :
    ∃ u, TakesAll (wireBody type.toNat p ++ noise) s u ∧ u.sync.mode = .hunting ∧
      packetRecords u.outputs = packetRecords s.outputs ++ [{ chan := s.cfg.chanId, type := type, payload := p }] := by
  obtain ⟨-, -, hlegal⟩ := h.paramsLegal
  obtain ⟨pbuf, hframe⟩ := absorb_wireBody hm hf hlegal hp ht hlen htype
  obtain ⟨m, -, hnoise, -⟩ := (h.afterBurst hframe).absorb_of_absent rfl rfl hno
  exact ⟨_, .of_unlocked (absorb_append hframe hnoise), rfl, packetRecords_append _ _⟩

/-- Settles O47: the marker locks the engine on its last byte, the body delivers the packet, and no noise locks it. -/
theorem exactlyOneFrameInNoise : Obligations.ExactlyOneFrameInNoise := by
  intro s type p before after head body h hv hm h0 hp ht hlen htype hmk hfirst hafter hhead hbody hl
  have hb := h.byteInv hv
  obtain ⟨hn, h8⟩ := hb.matchCount hm
  have hcap := h.capacity_pos
  have hfits : ∀ w ∈ head ++ body, w.length < s.params.ringCapacity := fun w hw => by
    have := hl w hw
    omega
  have hne : s.cfg.markerBytes ≠ [] :=
    List.length_pos_iff.1 (by rw [ChannelConfig.length_markerBytes h8]; omega)
  have hlock : TakesAll head.flatten s s.enterFrame :=
    hhead ▸ hb.takesAll_marker hm h0 hmk.lookbackExact (not_infix_dropLast hne hfirst)
  obtain ⟨t1, hrun1, hinv1, hparams1, hsame1⟩ := (SamePackets.refl s).runCommands h hv
    (fun w hw => hfits w (List.mem_append_left _ hw)) hlock
  obtain ⟨u, hframe, hmode, hpackets⟩ := hb.enterFrame.takesAll_body rfl rfl hp ht hlen htype hafter
  obtain ⟨t2, hrun2, -, -, hsame2⟩ := hsame1.runCommands hinv1 (hsame1.visible.cfg ▸ hv)
    (fun w hw => hparams1 ▸ hfits w (List.mem_append_right _ hw)) (hbody ▸ hframe)
  refine ⟨t2, ?_, hsame2.packets.trans hpackets, hsame2.visible.sync ▸ hmode⟩
  rw [List.map_append]
  exact runCommands_append_eq_next hrun1 hrun2

end Sys2Proof.Machine
end

section
/-! The variable-length integer codec (42_varint.md R141 to R147): the encoder's bytes in plain arithmetic, and the pairs of
bytes and value that each decoder accepts. -/

namespace Sys2Proof.Machine

variable {v : Word}

/-! ## The encoder -/

theorem varintEncode_of_lt (h : v.toNat < 128) : varintEncode v = some [BitVec.ofNat 8 v.toNat] := by
  rw [varintEncode, if_pos h, loByte_eq_ofNat, Nat.mod_eq_of_lt (by omega)]

/-- Taking 128 off leaves v mod 128 in the low seven bits (42_varint.md R141). -/
theorem toNat_sub_and_low7 (h : 128 ≤ v.toNat) : ((v - 128#16) &&& 0x7F#16).toNat = v.toNat % 128 := by
  have hand : v.toNat - 128 &&& 127 = (v.toNat - 128) % 128 := Nat.and_two_pow_sub_one_eq_mod _ 7
  rw [BitVec.toNat_and, BitVec.toNat_sub_of_le h]
  exact hand.trans (by omega)

/-- Below 2^15 the bits from 7 on are v / 128, and fit a byte (42_varint.md R141). -/
theorem toNat_shift_and_byte (h : v.toNat < 32768) : ((v >>> 7) &&& 0xFF#16).toNat = v.toNat / 128 := by
  have hand : v.toNat / 128 &&& 255 = v.toNat / 128 % 256 := Nat.and_two_pow_sub_one_eq_mod _ 8
  rw [BitVec.toNat_and, BitVec.toNat_ushiftRight, Nat.shiftRight_eq_div_pow]
  exact hand.trans (by omega)

theorem varintEncode_of_le_of_lt (h : 128 ≤ v.toNat) (hlt : v.toNat < 32768) :
    varintEncode v = some [BitVec.ofNat 8 (v.toNat % 128), BitVec.ofNat 8 (v.toNat / 128)] := by
  rw [varintEncode, if_neg (Nat.not_lt.2 h), if_pos hlt, loByte_eq_ofNat, loByte_eq_ofNat, toNat_sub_and_low7 h,
    toNat_shift_and_byte hlt, Nat.mod_eq_of_lt (a := v.toNat % 128) (by omega),
    Nat.mod_eq_of_lt (a := v.toNat / 128) (by omega)]

theorem varintEncode_eq_none (h : 32768 ≤ v.toNat) : varintEncode v = none := by
  rw [varintEncode, if_neg (Nat.not_lt.2 ((by decide : varintShortLimit ≤ 32768).trans h)), if_neg (Nat.not_lt.2 h)]

/-! ## The decoders -/

theorem varintDecodeOne_eq_some_iff {b : Byte} :
    varintDecodeOne b = some v ↔ v.toNat ≤ 127 ∧ b = BitVec.ofNat 8 v.toNat := by
  constructor
  · intro h
    refine ⟨varintDecodeOne_le h, ?_⟩
    unfold varintDecodeOne at h
    split at h
    · cases h
    · cases h
      rw [BitVec.toNat_setWidth_of_le (by decide), BitVec.ofNat_toNat, BitVec.setWidth_eq]
  · rintro ⟨h, rfl⟩
    rw [varintDecodeOne_ofNat (Nat.lt_succ_of_le h), BitVec.ofNat_toNat, BitVec.setWidth_eq]

/-- The second byte counts in units of 128, and is not 0 (42_varint.md R146). -/
theorem varintDecodeTwoSecond_toNat {p : Word} {b : Byte} (hp : p.toNat ≤ 127) (h : varintDecodeTwoSecond p b = some v) :
    v.toNat = p.toNat + 128 * b.toNat := by
  unfold varintDecodeTwoSecond at h
  split at h
  · cases h
  · cases h
    have hb := b.isLt
    simp only [BitVec.toNat_add, BitVec.toNat_mul, BitVec.toNat_ofNat, BitVec.toNat_setWidth]
    omega

theorem varintDecodeTwo_eq_some_iff {b0 b1 : Byte} :
    varintDecodeTwo b0 b1 = some v ↔
      fitsForm .two v ∧ b0 = BitVec.ofNat 8 (v.toNat % 128) ∧ b1 = BitVec.ofNat 8 (v.toNat / 128) := by
  constructor
  · intro h
    unfold varintDecodeTwo at h
    split at h
    · cases h
    · next p hp =>
      obtain ⟨hle, hb0⟩ := varintDecodeOne_eq_some_iff.1 hp
      have hv := varintDecodeTwoSecond_toNat hle h
      have hmod : v.toNat % 128 = p.toNat := by omega
      have hdiv : v.toNat / 128 = b1.toNat := by omega
      refine ⟨varintDecodeTwoSecond_fits hle h, hmod ▸ hb0, ?_⟩
      rw [hdiv, BitVec.ofNat_toNat, BitVec.setWidth_eq]
  · rintro ⟨⟨h, hmax⟩, rfl, rfl⟩
    simp only [varintDecodeTwo, varintDecodeTwoFirst_ofNat (Nat.mod_lt _ (by decide : 128 > 0)),
      varintDecodeTwoSecond_ofNat h hmax, BitVec.ofNat_toNat, BitVec.setWidth_eq]

/-! ## The decoders against the encoder -/

theorem varintDecodeOne_iff_varintEncode {b : Byte} :
    varintDecodeOne b = some v ↔ v.toNat ≤ 127 ∧ varintEncode v = some [b] := by
  rw [varintDecodeOne_eq_some_iff]
  refine and_congr_right fun h => ?_
  rw [varintEncode_of_lt (Nat.lt_succ_of_le h)]
  simp [eq_comm]

theorem varintDecodeTwo_iff_varintEncode {b0 b1 : Byte} :
    varintDecodeTwo b0 b1 = some v ↔ fitsForm .two v ∧ varintEncode v = some [b0, b1] := by
  rw [varintDecodeTwo_eq_some_iff]
  refine and_congr_right fun ⟨h, hmax⟩ => ?_
  rw [varintEncode_of_le_of_lt h (Nat.lt_succ_of_le hmax)]
  simp [eq_comm]

/-- Settles O29: one equation of the encoder for each range of v. -/
theorem varintEncodeBytes : Obligations.VarintEncodeBytes := fun _ =>
  ⟨varintEncode_of_lt, fun h hlt => ⟨varintEncode_of_le_of_lt h hlt, by omega, by omega⟩, varintEncode_eq_none⟩

/-- Settles O30: each decoder accepts exactly the encoder's bytes, so that what the encoder emits decodes to its value. -/
theorem varintDecodersInvertTheEncoder : Obligations.VarintDecodersInvertTheEncoder := by
  refine ⟨fun _ _ => varintDecodeOne_iff_varintEncode,
    fun _ _ _ => varintDecodeTwo_iff_varintEncode.trans and_assoc, fun v h => ?_, fun v h hmax => ?_⟩
  · have henc := varintEncode_of_lt (Nat.lt_succ_of_le h)
    exact ⟨_, henc, varintDecodeOne_iff_varintEncode.2 ⟨h, henc⟩⟩
  · have henc := varintEncode_of_le_of_lt h (Nat.lt_succ_of_le hmax)
    exact ⟨_, _, henc, varintDecodeTwo_iff_varintEncode.2 ⟨⟨h, hmax⟩, henc⟩⟩

end Sys2Proof.Machine
end

section
/-! The additive checksum (43_checksum.md R160 to R165): what its field holds for each payload length, that CsMatch compares the
fields, and which changes of a payload leave the field as it was. -/

namespace Sys2Proof.Machine

variable {len : Nat}

/-! ## The sum -/

theorem checksum16_eq_of_perm {p q : List Byte} (h : p.Perm q) : checksum16 p = checksum16 q := by
  apply BitVec.eq_of_toNat_eq
  rw [checksum16_toNat, checksum16_toNat, wireSum, wireSum, (h.map _).sum_eq]

/-- Settles O31: the loop's sum as a sum of numbers, which no order of the payload changes. -/
theorem checksumIsTheSumModulo : Obligations.ChecksumIsTheSumModulo :=
  ⟨checksum16_toNat, fun _ _ => checksum16_eq_of_perm⟩

/-! ## The field -/

theorem csWidth_eq_two (h : 32 ≤ len) : csWidth len = 2 := by
  rw [csWidth, if_neg (by omega), csWideLimit, if_neg (by omega)]

theorem csBytes_zero (sum : Word) : csBytes 0 sum = [] := rfl

theorem csBytes_of_lt (hpos : 1 ≤ len) (h : len < 32) (sum : Word) : csBytes len sum = [loByte sum] := by
  simp [csBytes, csWidth_eq_one_iff.2 ⟨hpos, h⟩]

theorem csBytes_of_le (h : 32 ≤ len) (sum : Word) : csBytes len sum = [loByte sum, hiByte sum] := by
  simp [csBytes, csWidth_eq_two h]

theorem eq_iff_loByte_hiByte {v w : Word} : v = w ↔ loByte v = loByte w ∧ hiByte v = hiByte w := by
  refine ⟨fun h => by simp [h], fun ⟨hlo, hhi⟩ => ?_⟩
  rw [← u16_loByte_hiByte v, hlo, hhi, u16_loByte_hiByte]

/-- CsMatch compares the fields of the two sums (43_checksum.md R163). -/
theorem csMatch_iff_csBytes (sum csx : Word) : csMatch len sum csx = true ↔ csBytes len sum = csBytes len csx := by
  unfold csMatch csBytes
  split
  · simp
  · split
    · simp
    · simp [eq_iff_loByte_hiByte (v := sum)]

theorem loByte_setWidth (b : Byte) : loByte (b.setWidth 16) = b := by
  apply BitVec.eq_of_toNat_eq
  have := b.isLt
  rw [loByte_toNat, BitVec.toNat_setWidth]
  omega

/-- Two bytes put together by OR are the 16-bit value of the two (30_encoding.md R84, 45_decoder.md R189). -/
theorem setWidth_or_shiftLeft (lo hi : Byte) : lo.setWidth 16 ||| hi.setWidth 16 <<< 8 = u16 lo hi := by
  rw [u16, BitVec.append_def, BitVec.shiftLeftZeroExtend_eq, BitVec.setWidth'_eq, BitVec.or_comm]

/-- One received byte reads as a field of one byte (45_decoder.md R189). -/
theorem csBytes_setWidth (hpos : 1 ≤ len) (h : len < 32) (b0 : Byte) : csBytes len (b0.setWidth 16) = [b0] := by
  rw [csBytes_of_lt hpos h, loByte_setWidth]

/-- Two received bytes, low byte first, read as a field of two bytes (45_decoder.md R189). -/
theorem csBytes_setWidth_or_shiftLeft (h : 32 ≤ len) (b0 b1 : Byte) :
    csBytes len (b0.setWidth 16 ||| (b1.setWidth 16 <<< 8)) = [b0, b1] := by
  rw [setWidth_or_shiftLeft, csBytes_of_le h, loByte_u16, hiByte_u16]

/-- Settles O32: the field's bytes for each range of lengths, and the received bytes as the field of RX_CSX. -/
theorem checksumFieldMatchesExactly : Obligations.ChecksumFieldMatchesExactly := by
  refine fun len sum => ⟨fun h => h ▸ csBytes_zero sum, fun hpos hle => ?_, fun hle => ?_⟩
  · have hlt := Nat.lt_succ_of_le hle
    refine ⟨by rw [csBytes_of_lt hpos hlt, loByte_eq_ofNat], fun b0 => ?_⟩
    rw [csMatch_iff_csBytes, csBytes_setWidth hpos hlt]
  · refine ⟨by rw [csBytes_of_le hle, loByte_eq_ofNat, hiByte_eq_ofNat], fun b0 b1 => ?_⟩
    rw [csMatch_iff_csBytes, csBytes_setWidth_or_shiftLeft hle]

/-! ## What the field tells apart -/

/-- A field of one byte tells sums apart modulo 256 only, a field of two bytes tells all apart (43_checksum.md R165). -/
theorem csBytes_eq_iff (hpos : 1 ≤ len) {v w : Word} :
    csBytes len v = csBytes len w ↔ if len < 32 then v.toNat % 256 = w.toNat % 256 else v = w := by
  split
  · next h => simp [csBytes_of_lt hpos h, BitVec.toNat_eq, loByte_toNat]
  · next h => simp [csBytes_of_le (Nat.not_lt.1 h), eq_iff_loByte_hiByte (v := v)]

/-- The same of two payloads, by the numbers their bytes add up to. -/
theorem csBytes_checksum16_eq_iff (hpos : 1 ≤ len) {p q : List Byte} :
    csBytes len (checksum16 p) = csBytes len (checksum16 q) ↔
      if len < 32 then (p.map fun b => b.toNat).sum % 256 = (q.map fun b => b.toNat).sum % 256
      else (p.map fun b => b.toNat).sum % 65536 = (q.map fun b => b.toNat).sum % 65536 := by
  rw [csBytes_eq_iff hpos, BitVec.toNat_eq, checksum16_toNat, checksum16_toNat, wireSum, wireSum,
    Nat.mod_mod_of_dvd _ (by decide), Nat.mod_mod_of_dvd _ (by decide)]

/-- One changed byte changes the sum by the bytes' difference. -/
theorem sum_map_toNat_set {p : List Byte} {i : Nat} (h : i < p.length) (b : Byte) :
    ((p.set i b).map fun b => b.toNat).sum + p[i].toNat = (p.map fun b => b.toNat).sum + b.toNat := by
  induction p generalizing i with
  | nil => cases h
  | cons a p ih =>
    cases i with
    | zero =>
      rw [List.set_cons_zero, List.getElem_cons_zero, List.map_cons, List.map_cons, List.sum_cons, List.sum_cons]
      omega
    | succ i =>
      have htail := ih (Nat.lt_of_succ_lt_succ h)
      rw [List.set_cons_succ, List.getElem_cons_succ, List.map_cons, List.map_cons, List.sum_cons, List.sum_cons]
      omega

theorem csBytes_set_ne {p : List Byte} {i : Nat} {b : Byte} (h : i < p.length) (hne : p[i] ≠ b) :
    csBytes p.length (checksum16 (p.set i b)) ≠ csBytes p.length (checksum16 p) := by
  have hsum := sum_map_toNat_set h b
  have hne' : p[i].toNat ≠ b.toNat := fun heq => hne (BitVec.eq_of_toNat_eq heq)
  have hold := p[i].isLt
  have hnew := b.isLt
  rw [Ne, csBytes_checksum16_eq_iff (by omega)]
  split <;> omega

/-- Settles O33: the field tells sums apart modulo 256 or 65536, and one changed byte changes the sum by less than 256. -/
theorem checksumDetectsAndMisses : Obligations.ChecksumDetectsAndMisses := by
  refine ⟨fun p i b h hne => ?_, fun p q hlen hpos hsum => ?_⟩
  · have hfield := csBytes_set_ne h hne
    exact ⟨hfield, Bool.eq_false_iff.2 (mt (csMatch_iff_csBytes _ _).1 hfield)⟩
  · have hfield := ((csBytes_checksum16_eq_iff hpos).2 hsum).symm
    exact ⟨hfield, (csMatch_iff_csBytes _ _).2 hfield⟩

end Sys2Proof.Machine
end

section
/-! The packet encoder (44_encoder.md R170 to R174): its frames are those of the wire format in plain arithmetic, so that their
length is the sum of the lengths of the format's fields. -/

namespace Sys2Proof.Machine

variable {c : ChannelConfig} {type : Word} {p frame : List Byte}

/-! ## The encoder against the wire format -/

theorem varintEncode_eq_wireVarint {v : Word} (h : v.toNat ≤ 32767) : varintEncode v = some (wireVarint v.toNat) := by
  unfold wireVarint
  split
  · next hshort => exact varintEncode_of_lt hshort
  · next hlong => exact varintEncode_of_le_of_lt (Nat.not_lt.1 hlong) (Nat.lt_succ_of_le h)

theorem csBytes_checksum16_eq_wireChecksum (p : List Byte) : csBytes p.length (checksum16 p) = wireChecksum p := by
  unfold wireChecksum
  split
  · next hnil => rw [hnil, csBytes_zero]
  · next hne =>
    split
    · next hshort => rw [csBytes_of_lt (Nat.pos_of_ne_zero hne) hshort, loByte_eq_ofNat, checksum16_toNat]
    · next hlong => rw [csBytes_of_le (Nat.not_lt.1 hlong), loByte_eq_ofNat, hiByte_eq_ofNat, checksum16_toNat]

theorem frameBody_eq_wireBody (hp : p.length ≤ 32767) (ht : type.toNat ≤ 32767) :
    frameBody type p = some (wireBody type.toNat p) := by
  have hlen : (BitVec.ofNat 16 p.length).toNat = p.length := Nat.mod_eq_of_lt (by omega)
  have henc := varintEncode_eq_wireVarint (hlen.trans_le hp)
  rw [hlen] at henc
  simp only [frameBody, header, henc, varintEncode_eq_wireVarint ht, csBytes_checksum16_eq_wireChecksum, wireBody]

/-- The encoder gives a frame exactly where both values fit a varint, and then the one of the wire format (44_encoder.md R170
to R172, 30_encoding.md R89). -/
theorem encodeFrame_eq_some_iff :
    encodeFrame c type p = some frame ↔
      p.length ≤ 32767 ∧ type.toNat ≤ 32767 ∧ frame = wireFrame c.markerBytes type.toNat p := by
  unfold encodeFrame
  split
  · next hout =>
    exact ⟨nofun, fun ⟨hp, ht, _⟩ => absurd hout (not_or.2 ⟨Nat.not_lt.2 hp, Nat.not_lt.2 ht⟩)⟩
  · next hin =>
    have hp := Nat.not_lt.1 (not_or.1 hin).1
    have ht := Nat.not_lt.1 (not_or.1 hin).2
    simp [frameBody_eq_wireBody hp ht, wireFrame, hp, ht, eq_comm]

/-! ## Lengths of the fields -/

@[simp] theorem length_wireVarint (v : Nat) : (wireVarint v).length = if v < 128 then 1 else 2 := by
  unfold wireVarint
  split <;> rfl

@[simp] theorem length_wireChecksum (p : List Byte) :
    (wireChecksum p).length = if p.length = 0 then 0 else if p.length < 32 then 1 else 2 := by
  unfold wireChecksum
  split
  · rfl
  · split <;> rfl

/-- N + H + L with H the lengths of the two varints and of the checksum field (44_encoder.md R174). -/
theorem length_wireFrame (marker : List Byte) (type : Nat) (p : List Byte) :
    (wireFrame marker type p).length = marker.length +
      ((if p.length < 128 then 1 else 2) + (if type < 128 then 1 else 2) +
        (if p.length = 0 then 0 else if p.length < 32 then 1 else 2)) + p.length := by
  simp only [wireFrame, wireBody, List.length_append, length_wireVarint, length_wireChecksum, Nat.add_assoc]

/-- Settles O34: the frame is that of the wire format, and the table's row and column say which of its fields have which
length. -/
theorem frameLengthByTable : Obligations.FrameLengthByTable := by
  intro c type p frame hn henc
  obtain ⟨-, -, rfl⟩ := encodeFrame_eq_some_iff.1 henc
  rw [length_wireFrame, ChannelConfig.length_markerBytes hn]
  split_ifs <;> omega

end Sys2Proof.Machine
end

section
/-! DecodeStep phase by phase (45_decoder.md R183 to R191): one equation per phase, lengths and types as plain numbers. -/

namespace Sys2Proof.Machine

/-! ## Varint bytes -/

/-- The first byte of a varint is refused exactly where its bit 7 is set (42_varint.md R145, R146). -/
theorem varintDecodeOne_eq (b : Byte) :
    varintDecodeOne b = if 128 ≤ b.toNat then none else some (BitVec.ofNat 16 b.toNat) := by
  have hbit : b.getLsbD 7 = true ↔ 128 ≤ b.toNat := by
    have := b.isLt
    rw [getLsbD_iff_div_mod]
    omega
  simp only [varintDecodeOne, hbit, BitVec.ofNat_toNat]

theorem varintDecodeTwoFirst_eq (b : Byte) :
    varintDecodeTwoFirst b = if 128 ≤ b.toNat then none else some (BitVec.ofNat 16 b.toNat) := varintDecodeOne_eq b

/-- The second byte of a varint is refused exactly where it is 0 (42_varint.md R146). -/
theorem varintDecodeTwoSecond_eq (p : Word) (b : Byte) :
    varintDecodeTwoSecond p b = if b = 0 then none else some (BitVec.ofNat 16 (p.toNat + 128 * b.toNat)) := by
  rw [BitVec.ofNat_add, BitVec.ofNat_mul, BitVec.ofNat_toNat, BitVec.ofNat_toNat, BitVec.setWidth_eq]
  rfl

/-! ## Values of one and of two bytes -/

theorem toNat_ofNat_byte (b : Byte) : (BitVec.ofNat 16 b.toNat).toNat = b.toNat := by
  have := b.isLt
  exact Nat.mod_eq_of_lt (by omega)

theorem ofNat_toNat_byte (b : Byte) : BitVec.ofNat 8 b.toNat = b := by
  rw [BitVec.ofNat_toNat, BitVec.setWidth_eq]

theorem toNat_ofNat_twoBytes {v : Nat} (hv : v ≤ 127) (b : Byte) :
    (BitVec.ofNat 16 (v + 128 * b.toNat)).toNat = v + 128 * b.toNat := by
  have := b.isLt
  exact Nat.mod_eq_of_lt (by omega)

/-! ## The phases -/

section
variable {s : State}

/-- LenDone (45_decoder.md R185), whatever the frame. -/
theorem State.lenDone_withFrame (s : State) (f : Frame) : (s.withFrame f).lenDone =
    if s.params.maxPayload < f.rxLen.toNat then s.headerFail else s.withFrame { f with phase := .typeB0 } := rfl

/-- LEN_B0 (45_decoder.md R183). -/
theorem State.decodeStep_lenB0 (hp : s.frame.phase = .lenB0) (b : Byte) : s.decodeStep b =
    .ok (if 128 ≤ b.toNat ∨ (s.cfg.lenForm = .one ∧ s.params.maxPayload < b.toNat) then s.headerFail
      else s.withFrame { s.frame with
        rxLen := BitVec.ofNat 16 b.toNat, phase := if s.cfg.lenForm = .two then .lenB1 else .typeB0 }) := by
  have hdone := s.lenDone_withFrame { s.frame with rxLen := BitVec.ofNat 16 b.toNat }
  simp only [toNat_ofNat_byte] at hdone
  have hstep : s.decodeStep b = .ok (s.stepLenB0 b) := by rw [decodeStep, hp]
  rw [hstep, stepLenB0, varintDecodeOne_eq, varintDecodeTwoFirst_eq]
  by_cases h7 : 128 ≤ b.toNat
  · cases s.cfg.lenForm <;> simp only [h7, if_true, true_or]
  · cases s.cfg.lenForm with
    | one =>
      simp only [h7, if_false, false_or, true_and, reduceCtorEq]
      exact congrArg Except.ok hdone
    | two =>
      simp only [h7, if_false, if_true, false_or, false_and, reduceCtorEq]
      rfl

/-- LEN_B1 (45_decoder.md R184, R185). -/
theorem State.decodeStep_lenB1 (hp : s.frame.phase = .lenB1) (hl : s.frame.rxLen.toNat ≤ 127) (b : Byte) : s.decodeStep b =
    .ok (if b = 0 ∨ s.params.maxPayload < s.frame.rxLen.toNat + 128 * b.toNat then s.headerFail
      else s.withFrame { s.frame with
        rxLen := BitVec.ofNat 16 (s.frame.rxLen.toNat + 128 * b.toNat), phase := .typeB0 }) := by
  have hdone := s.lenDone_withFrame { s.frame with rxLen := BitVec.ofNat 16 (s.frame.rxLen.toNat + 128 * b.toNat) }
  simp only [toNat_ofNat_twoBytes hl] at hdone
  have hstep : s.decodeStep b = .ok (s.stepLenB1 b) := by rw [decodeStep, hp]
  rw [hstep, stepLenB1, varintDecodeTwoSecond_eq]
  by_cases h0 : b = 0
  · simp only [h0, if_true, true_or]
  · simp only [h0, if_false, false_or]
    exact congrArg Except.ok hdone

/-- TYPE_B0 (45_decoder.md R186, R188). -/
theorem State.decodeStep_typeB0 (hp : s.frame.phase = .typeB0) (b : Byte) : s.decodeStep b =
    .ok (if 128 ≤ b.toNat then s.headerFail
      else if s.cfg.typeForm = .two then
        s.withFrame { s.frame with rxType := BitVec.ofNat 16 b.toNat, phase := .typeB1 }
      else s.typed (BitVec.ofNat 16 b.toNat)) := by
  have hdone := s.typeDone_withFrame (BitVec.ofNat 16 b.toNat) .typeB0
  have hstep : s.decodeStep b = s.stepTypeB0 b := by rw [decodeStep, hp]
  rw [← hp] at hdone
  rw [hstep, stepTypeB0, varintDecodeOne_eq, varintDecodeTwoFirst_eq]
  by_cases h7 : 128 ≤ b.toNat
  · cases s.cfg.typeForm <;> simp only [h7, if_true]
  · cases s.cfg.typeForm with
    | one =>
      simp only [h7, if_false, reduceCtorEq]
      exact hdone
    | two =>
      simp only [h7, if_false, if_true]
      rfl

/-- TYPE_B1 (45_decoder.md R187, R188). -/
theorem State.decodeStep_typeB1 (hp : s.frame.phase = .typeB1) (b : Byte) : s.decodeStep b =
    .ok (if b = 0 then s.headerFail else s.typed (BitVec.ofNat 16 (s.frame.rxType.toNat + 128 * b.toNat))) := by
  have hdone := s.typeDone_withFrame (BitVec.ofNat 16 (s.frame.rxType.toNat + 128 * b.toNat)) .typeB1
  have hstep : s.decodeStep b = s.stepTypeB1 b := by rw [decodeStep, hp]
  rw [← hp] at hdone
  rw [hstep, stepTypeB1, varintDecodeTwoSecond_eq]
  by_cases h0 : b = 0
  · simp only [h0, if_true]
  · simp only [h0, if_false]
    exact hdone

/-- CS_B0 (45_decoder.md R189). -/
theorem State.decodeStep_csB0 (hp : s.frame.phase = .csB0) (hpos : 1 ≤ s.frame.rxLen.toNat) (b : Byte) : s.decodeStep b =
    .ok (s.withFrame { s.frame with
      rxCsx := b.setWidth 16, phase := if 32 ≤ s.frame.rxLen.toNat then .csB1 else .payload }) := by
  have hw : csWidth s.frame.rxLen.toNat = 1 ↔ ¬ 32 ≤ s.frame.rxLen.toNat := by
    rw [csWidth_eq_one_iff]
    omega
  simp only [decodeStep, hp, stepCsB0, hw, ite_not]
  rfl

/-- CS_B1 (45_decoder.md R189): low byte first. -/
theorem State.decodeStep_csB1 (hp : s.frame.phase = .csB1) (hx : s.frame.rxCsx.toNat ≤ 255) (b : Byte) : s.decodeStep b =
    .ok (s.withFrame { s.frame with rxCsx := u16 (loByte s.frame.rxCsx) b, phase := .payload }) := by
  have hlow : (loByte s.frame.rxCsx).setWidth 16 = s.frame.rxCsx := by
    apply BitVec.eq_of_toNat_eq
    rw [BitVec.toNat_setWidth, loByte_toNat]
    omega
  simp only [decodeStep, hp, stepCsB1, ← setWidth_or_shiftLeft, hlow]
  rfl

/-! ## The payload bytes counted so far -/

/-- The payload bytes received and counted so far are `got`, in their places of PBUF (45_decoder.md R190). -/
structure State.HasPayload (s : State) (got : List Byte) : Prop where
  count : got.length = s.frame.rxCount.toNat
  stored : ∀ (i : Nat) (h : i < got.length), s.pbufByte i = some got[i]

theorem State.hasPayload_nil (h : s.frame.rxCount = 0) : s.HasPayload [] := ⟨by simp [h], nofun⟩

theorem State.HasPayload.eq_nil {got : List Byte} (h : s.HasPayload got) (h0 : s.frame.rxCount = 0) : got = [] :=
  List.length_eq_zero_iff.1 (h.count.trans (by simp [h0]))

/-- Every counted byte is written, so that the bytes counted so far are some list. -/
theorem State.exists_hasPayload (hw : ∀ i, i < s.frame.rxCount.toNat → (s.pbufByte i).isSome = true) :
    ∃ got, s.HasPayload got :=
  ⟨List.ofFn fun k : Fin s.frame.rxCount.toNat => (s.pbufByte k).get (hw k k.isLt), List.length_ofFn,
    fun i hi => by simp⟩

/-- A payload byte is counted behind those counted before. -/
theorem State.HasPayload.storePayload {got : List Byte} (h : s.HasPayload got)
    (hmax : s.frame.rxCount.toNat < 32767) (b : Byte) : (s.storePayload b).HasPayload (got ++ [b]) where
  count := by
    have hsucc : (s.frame.rxCount + 1).toNat = s.frame.rxCount.toNat + 1 := by
      rw [BitVec.toNat_add]
      exact Nat.mod_eq_of_lt (show s.frame.rxCount.toNat + 1 < 2 ^ 16 by omega)
    rw [List.length_append, List.length_singleton, h.count]
    exact hsucc.symm
  stored i hi := by
    have hcount := h.count
    rcases Nat.lt_or_eq_of_le (Nat.le_of_lt_succ (by simpa using hi)) with hlt | rfl
    · have hne : i ≠ s.frame.rxCount.toNat := by omega
      simpa [State.storePayload, Memory.read_write_other _ _ _ _ hne, hlt] using h.stored i hlt
    · simp [State.storePayload, hcount, Memory.read_write_same]

/-- Once RX_LEN bytes are counted, they are the payload that is read back. -/
theorem State.HasPayload.receivedPayload {got : List Byte} (h : s.HasPayload got)
    (hl : got.length = s.frame.rxLen.toNat) (hmax : s.frame.rxLen.toNat ≤ s.params.maxPayload) :
    s.receivedPayload = .ok got :=
  readCells_eq_ok.2 ⟨hl, fun k hk => by
    rw [Nat.zero_add]
    exact ⟨by omega, h.stored k hk⟩⟩

/-- PAYLOAD (45_decoder.md R190 to R192, R195): the byte is stored, and the last one ends the frame. -/
theorem State.ByteInv.decodeStep_payload (h : s.ByteInv) (hm : s.sync.mode = .inFrame) (hp : s.frame.phase = .payload)
    {got : List Byte} (hg : s.HasPayload got) (b : Byte) : s.decodeStep b =
    .ok (if s.frame.rxCount.toNat + 1 = s.frame.rxLen.toNat then
        if csMatch (got ++ [b]).length (checksum16 (got ++ [b])) s.frame.rxCsx = true then
          ((s.storePayload b).emitPacket
            { chan := s.cfg.chanId, type := s.frame.rxType, payload := got ++ [b] }).endFrame
        else (s.storePayload b).checksumFail
      else s.storePayload b) := by
  have hf := h.frameFits hm
  simp only [Frame.Fits, hp] at hf
  obtain ⟨⟨hl, -⟩, hcount, -, -⟩ := hf
  obtain ⟨-, -, hlegal⟩ := h.paramsLegal
  have hs := hg.storePayload (by omega) b
  have hlen : (got ++ [b]).length = s.frame.rxCount.toNat + 1 := by simp [hg.count]
  have hlast : s.frame.rxCount + 1 = s.frame.rxLen ↔ s.frame.rxCount.toNat + 1 = s.frame.rxLen.toNat := by
    rw [BitVec.toNat_eq, ← hlen, hs.count]
    rfl
  simp only [State.decodeStep, hp, State.stepPayload_eq, if_pos (hcount.trans_le hl), hlast]
  split
  · next hend =>
    rw [hlen, hend]
    exact State.complete_eq_ok.2 ⟨_, hs.receivedPayload (hlen.trans hend) hl, rfl⟩
  · rfl

/-! ## One byte in a RECEIVE of its own -/

/-- IN_FRAME a RECEIVE of one byte is DecodeStep of it, and its response. -/
theorem State.Inv.exec_receive_oneByte {b : Byte} {a : State} (h : s.Inv) (hv : s.cfg.valid = true)
    (hm : s.sync.mode = .inFrame) (hd : s.decodeStep b = .ok a) : Machine.exec (.receive [b]) s =
      .next ((a.withRing ((s.writtenRing [b]).drained false)).respond .ok) := by
  obtain ⟨hrd, hwr⟩ := h.cursorsInRange
  have hl : [b].length < s.params.ringCapacity := h.paramsLegal.1.1
  exact (execReceive_eq_next_absorb hv h.ringDrained hrd hwr hl).2 ⟨a, false, absorb_oneByte hm hd, rfl⟩

end

/-- Settles O40, by the equations of LEN_B0 and of LEN_B1. -/
theorem lengthByteStep : Obligations.LengthByteStep := by
  intro s b h hv hm hp
  have hf := (h.byteInv hv).frameFits hm
  rcases hp with hp | hp
  · have hnext := h.exec_receive_oneByte hv hm (State.decodeStep_lenB0 hp b)
    by_cases hfail : 128 ≤ b.toNat ∨ (s.cfg.lenForm = .one ∧ s.params.maxPayload < b.toNat)
    · rw [if_pos hfail] at hnext
      refine ⟨_, hnext, fun _ => ⟨rfl, rfl, rfl⟩, fun hgood => absurd ?_ hgood, rfl, rfl, rfl⟩
      exact hfail.imp (fun h7 => ⟨hp, h7⟩) fun ⟨hone, hmax⟩ => .inr ⟨by simp [hone], by simpa [hp] using hmax⟩
    · rw [if_neg hfail] at hnext
      refine ⟨_, hnext, fun hbad => absurd ?_ hfail, fun _ => ⟨rfl, rfl, ?_, rfl, ?_, ?_⟩, rfl, rfl, rfl⟩
      · cases hform : s.cfg.lenForm <;> simpa [hp, hform] using hbad
      · exact (toNat_ofNat_byte b).trans (if_pos hp).symm
      · rintro ⟨-, htwo⟩
        exact if_pos htwo
      · intro hlast
        exact if_neg fun htwo => hlast ⟨hp, htwo⟩
  · simp only [Frame.Fits, hp] at hf
    obtain ⟨-, hl, -, -, -⟩ := hf
    have hnext := h.exec_receive_oneByte hv hm (State.decodeStep_lenB1 hp hl b)
    by_cases hfail : b = 0 ∨ s.params.maxPayload < s.frame.rxLen.toNat + 128 * b.toNat
    · rw [if_pos hfail] at hnext
      refine ⟨_, hnext, fun _ => ⟨rfl, rfl, rfl⟩, fun hgood => absurd ?_ hgood, rfl, rfl, rfl⟩
      simpa [hp] using hfail
    · rw [if_neg hfail] at hnext
      refine ⟨_, hnext, fun hbad => absurd ?_ hfail, fun _ => ⟨rfl, rfl, ?_, rfl, ?_, ?_⟩, rfl, rfl, rfl⟩
      · simpa [hp] using hbad
      · exact (toNat_ofNat_twoBytes hl b).trans (if_neg (by simp [hp])).symm
      · simp [hp]
      · exact fun _ => rfl

/-- The RECEIVE of a byte that completes the type: an empty frame is delivered, another goes on to its checksum (45_decoder.md
R188). -/
theorem State.Inv.exec_receive_typed {s : State} {b : Byte} {type : Nat} (h : s.Inv) (hv : s.cfg.valid = true)
    (hm : s.sync.mode = .inFrame) (hd : s.decodeStep b = .ok (s.typed (BitVec.ofNat 16 type)))
    (ht : (BitVec.ofNat 16 type).toNat = type) :
    ∃ t : State, Machine.exec (.receive [b]) s = .next t ∧
      (s.frame.rxLen = 0 → t.flags = s.flags ∧ t.sync = { mode := .hunting, m := 0 } ∧ t.frame = Frame.reset ∧
        t.outputs = s.outputs ++
          [.packet { chan := s.cfg.chanId, type := BitVec.ofNat 16 type, payload := [] }, .response (.code .ok)]) ∧
      (s.frame.rxLen ≠ 0 → t.flags = s.flags ∧ t.sync = s.sync ∧ t.frame.rxType.toNat = type ∧
        t.frame = { s.frame with rxType := t.frame.rxType, phase := .csB0 } ∧
        t.outputs = s.outputs ++ [.response (.code .ok)]) ∧
      t.cfg = s.cfg ∧ t.pbuf = s.pbuf := by
  have hnext := h.exec_receive_oneByte hv hm hd
  by_cases h0 : s.frame.rxLen = 0
  · rw [State.typed_of_empty h0] at hnext
    exact ⟨_, hnext, fun _ => ⟨rfl, rfl, rfl, List.append_assoc _ _ _⟩, fun hn => absurd h0 hn, rfl, rfl⟩
  · rw [State.typed_of_nonempty h0] at hnext
    exact ⟨_, hnext, fun hy => absurd hy h0, fun _ => ⟨rfl, rfl, ht, rfl, rfl⟩, rfl, rfl⟩

/-- Settles O41, by the equations of TYPE_B0 and of TYPE_B1: a header error, a first byte of two, or a completed type. -/
theorem typeByteStep : Obligations.TypeByteStep := by
  intro s b h hv hm hp
  have hf := (h.byteInv hv).frameFits hm
  rcases hp with hp | hp
  · have hd := State.decodeStep_typeB0 hp b
    simp only [hp, true_and, false_and, or_false, if_true, reduceCtorEq]
    by_cases h7 : 128 ≤ b.toNat
    · rw [if_pos h7] at hd
      exact ⟨_, h.exec_receive_oneByte hv hm hd, fun _ => ⟨rfl, rfl, rfl, rfl⟩, fun hn => absurd h7 hn,
        fun hn => absurd h7 hn, rfl, rfl⟩
    rw [if_neg h7] at hd
    by_cases hmore : s.cfg.typeForm = .two
    · rw [if_pos hmore] at hd
      exact ⟨_, h.exec_receive_oneByte hv hm hd, fun hy => absurd hy h7, fun _ hn => absurd hmore hn, fun _ _ =>
        ⟨rfl, rfl, toNat_ofNat_byte b, rfl, fun _ => rfl, fun hn => absurd hmore hn, rfl⟩, rfl, rfl⟩
    · rw [if_neg hmore] at hd
      obtain ⟨t, hnext, hempty, hgoes, hcfg, hpbuf⟩ := h.exec_receive_typed hv hm hd (toNat_ofNat_byte b)
      refine ⟨t, hnext, fun hy => absurd hy h7, fun _ _ => hempty, fun _ hne => ?_, hcfg, hpbuf⟩
      obtain ⟨hflags, hsync, htype, hframe, hout⟩ := hgoes (hne.resolve_left hmore)
      exact ⟨hflags, hsync, htype, by rw [hframe], fun hy => absurd hy hmore, fun _ => by rw [hframe], hout⟩
  · have hd := State.decodeStep_typeB1 hp b
    simp only [Frame.Fits, hp] at hf
    obtain ⟨-, -, hfirst, -, -⟩ := hf
    simp only [hp, true_and, false_and, false_or, if_false, not_false_eq_true, true_implies, reduceCtorEq]
    by_cases h0 : b = 0
    · rw [if_pos h0] at hd
      exact ⟨_, h.exec_receive_oneByte hv hm hd, fun _ => ⟨rfl, rfl, rfl, rfl⟩, fun hn => absurd h0 hn,
        fun hn => absurd h0 hn, rfl, rfl⟩
    · rw [if_neg h0] at hd
      obtain ⟨t, hnext, hempty, hgoes, hcfg, hpbuf⟩ := h.exec_receive_typed hv hm hd (toNat_ofNat_twoBytes hfirst b)
      refine ⟨t, hnext, fun hy => absurd hy h0, fun _ => hempty, fun _ hne => ?_, hcfg, hpbuf⟩
      obtain ⟨hflags, hsync, htype, hframe, hout⟩ := hgoes hne
      exact ⟨hflags, hsync, htype, by rw [hframe], nofun, by rw [hframe], hout⟩

/-- Settles O42, by the equations of CS_B0 and of CS_B1. -/
theorem checksumByteStep : Obligations.ChecksumByteStep := by
  intro s b h hv hm hp
  have hf := (h.byteInv hv).frameFits hm
  rcases hp with hp | hp
  · simp only [Frame.Fits, hp] at hf
    obtain ⟨-, hpos, -, -, -⟩ := hf
    have hlow : (b.setWidth 16).toNat = b.toNat := BitVec.toNat_setWidth_of_le (by decide)
    simp only [hp, true_and, if_true]
    exact ⟨_, h.exec_receive_oneByte hv hm (State.decodeStep_csB0 hp hpos b), hlow, rfl, rfl, rfl, rfl, rfl, rfl, rfl⟩
  · simp only [Frame.Fits, hp] at hf
    obtain ⟨-, -, -, hx, -⟩ := hf
    have hboth : (u16 (loByte s.frame.rxCsx) b).toNat = s.frame.rxCsx.toNat + 256 * b.toNat := by
      rw [u16_toNat, loByte_toNat, Nat.mod_eq_of_lt (by omega)]
    simp only [hp, false_and, if_false, reduceCtorEq]
    exact ⟨_, h.exec_receive_oneByte hv hm (State.decodeStep_csB1 hp hx b), hboth, rfl, rfl, rfl, rfl, rfl, rfl, rfl⟩

/-- In a field that RX_CSX can hold, CsMatch compares numbers (43_checksum.md R163). -/
theorem csMatch_iff_wireSum {p : List Byte} {csx : Word} (hne : p ≠ []) (hx : p.length < 32 → csx.toNat ≤ 255) :
    csMatch p.length (checksum16 p) csx = true ↔
      if p.length < 32 then wireSum p % 256 = csx.toNat else wireSum p = csx.toNat := by
  rw [csMatch_iff_csBytes, csBytes_eq_iff (List.length_pos_iff.2 hne), BitVec.toNat_eq, checksum16_toNat]
  split
  · next hshort => rw [Nat.mod_eq_of_lt (a := csx.toNat) (Nat.lt_succ_of_le (hx hshort))]
  · rfl

/-- Settles O43, by the equation of PAYLOAD, and that CsMatch compares the sum with RX_CSX. -/
theorem payloadByteStep : Obligations.PayloadByteStep := by
  intro s b got h hv hm hp hcount hstored
  have hb := h.byteInv hv
  have hf := hb.frameFits hm
  simp only [Frame.Fits, hp] at hf
  obtain ⟨-, -, -, hx⟩ := hf
  have hnext := h.exec_receive_oneByte hv hm (hb.decodeStep_payload hm hp ⟨hcount, hstored⟩ b)
  have hsame : (s.storePayload b).pbufByte s.frame.rxCount.toNat = some b := Memory.read_write_same _ _ _
  have hother : ∀ a, a ≠ s.frame.rxCount.toNat → (s.storePayload b).pbufByte a = s.pbufByte a := fun a ha =>
    Memory.read_write_other _ _ _ _ ha
  by_cases hlast : s.frame.rxCount.toNat + 1 = s.frame.rxLen.toNat
  · have hlen : (got ++ [b]).length = s.frame.rxLen.toNat := by simp [hcount, hlast]
    have hmatch := csMatch_iff_wireSum (p := got ++ [b]) (by simp) fun hshort => hx (hlen ▸ hshort)
    rw [if_pos hlast] at hnext
    by_cases hgood : csMatch (got ++ [b]).length (checksum16 (got ++ [b])) s.frame.rxCsx = true
    · rw [if_pos hgood] at hnext
      exact ⟨_, hnext, hsame, hother, fun hn => absurd hlast hn, fun _ => ⟨rfl, rfl,
        fun _ => ⟨rfl, List.append_assoc _ _ _⟩, fun hbad => absurd (hmatch.1 hgood) hbad⟩, rfl⟩
    · rw [if_neg hgood] at hnext
      exact ⟨_, hnext, hsame, hother, fun hn => absurd hlast hn, fun _ => ⟨rfl, rfl,
        fun hy => absurd (hmatch.2 hy) hgood, fun _ => ⟨rfl, rfl⟩⟩, rfl⟩
  · rw [if_neg hlast] at hnext
    exact ⟨_, hnext, hsame, hother, fun _ => ⟨rfl, rfl, rfl, rfl⟩, fun hy => absurd hy hlast, rfl⟩

end Sys2Proof.Machine
end

section
/-! Frames on the wire (45_decoder.md R198, R199): the engine IN_FRAME holds exactly the bytes it has received of its frame, so
that it delivers a packet where they are all of the packet's, and nothing before. -/

namespace Sys2Proof.Machine

/-! ## The packets of a configuration -/

/-- The packets an engine can deliver: of its channel, of its forms' widths, and no longer than PBUF (45_decoder.md R193). -/
def Packet.FitsConfig (packet : Packet) (p : Params) (c : ChannelConfig) : Prop :=
  packet.chan = c.chanId ∧ packet.type.toNat ≤ 32767 ∧ packet.payload.length ≤ p.maxPayload ∧
    c.lenForm = formOfValue packet.payload.length ∧ c.typeForm = formOfValue packet.type.toNat

/-- A form fits the values that the encoder spells with it (42_varint.md R147, R148). -/
theorem fitsForm_iff {f : Form} {v : Word} : fitsForm f v ↔ v.toNat ≤ 32767 ∧ f = formOfValue v.toNat := by
  unfold formOfValue varintShortLimit
  cases f with
  | one =>
    simp only [fitsForm, eq_comm (a := Form.one), ite_eq_left_iff, reduceCtorEq, imp_false, not_not]
    omega
  | two =>
    simp only [fitsForm, eq_comm (a := Form.two), ite_eq_right_iff, reduceCtorEq, imp_false]
    omega

/-! ## The bytes of a frame in progress -/

/-- The header bytes that a frame in progress has received, as its fields hold them (45_decoder.md R183 to R189). -/
def Frame.headerBytes (f : Frame) : List Byte :=
  match f.phase with
  | .lenB0 => []
  | .lenB1 => [BitVec.ofNat 8 f.rxLen.toNat]
  | .typeB0 => wireVarint f.rxLen.toNat
  | .typeB1 => wireVarint f.rxLen.toNat ++ [BitVec.ofNat 8 f.rxType.toNat]
  | .csB0 => wireVarint f.rxLen.toNat ++ wireVarint f.rxType.toNat
  | .csB1 => wireVarint f.rxLen.toNat ++ wireVarint f.rxType.toNat ++ [loByte f.rxCsx]
  | .payload => wireVarint f.rxLen.toNat ++ wireVarint f.rxType.toNat ++ csBytes f.rxLen.toNat f.rxCsx

/-- IN_FRAME, with `bytes` received of the frame: its header's and the payload's, counted so far. -/
structure State.HasReceived (s : State) (bytes : List Byte) : Prop where
  mode : s.sync.mode = .inFrame
  received : ∃ got, s.HasPayload got ∧ bytes = s.frame.headerBytes ++ got

section
variable {s t u : State} {b : Byte} {bytes done data : List Byte} {locked : Bool}

/-- At the start of a frame nothing of it is received. -/
theorem State.hasReceived_nil (hm : s.sync.mode = .inFrame) (hf : s.frame = Frame.reset) : s.HasReceived [] :=
  ⟨hm, [], State.hasPayload_nil (by rw [hf]; rfl), by rw [hf]; rfl⟩

/-- While no payload byte is counted, the header's bytes are all. -/
theorem State.HasReceived.eq_headerBytes (h : s.HasReceived bytes) (h0 : s.frame.rxCount = 0) :
    bytes = s.frame.headerBytes := by
  obtain ⟨-, got, hg, rfl⟩ := h
  rw [hg.eq_nil h0, List.append_nil]

/-- Every engine IN_FRAME has received some bytes of its frame. -/
theorem State.ByteInv.exists_hasReceived (h : s.ByteInv) (hm : s.sync.mode = .inFrame) : ∃ bytes, s.HasReceived bytes := by
  obtain ⟨got, hg⟩ := State.exists_hasPayload h.payloadWritten
  exact ⟨_, hm, got, hg, rfl⟩

/-- What becomes of the frame of an engine `s` with bytes that make what it has received `bytes`: it goes on with all of them;
or it has ended, with nothing delivered, or with the packet that `bytes` begin with. A marker completed behind it locks. -/
inductive FrameOutcome (s : State) (bytes : List Byte) (t : State) (locked : Bool) : Prop
  | goesOn (received : t.HasReceived bytes) (outputs : t.outputs = s.outputs)
  | fails (hunting : locked = false → t.sync.mode = .hunting) (outputs : t.outputs = s.outputs)
  | delivers (hunting : locked = false → t.sync.mode = .hunting) (packet : Packet)
      (outputs : t.outputs = s.outputs ++ [.packet packet]) (fits : packet.FitsConfig s.params s.cfg)
      (whole : wireBody packet.type.toNat packet.payload <+: bytes)

/-! ## One byte -/

theorem frameOutcome_headerFail (s : State) (bytes : List Byte) : FrameOutcome s bytes s.headerFail false :=
  .fails (fun _ => rfl) rfl

/-- Another header byte, within the frame. -/
theorem frameOutcome_withFrame (hm : s.sync.mode = .inFrame) {f : Frame} (h0 : f.rxCount = 0)
    (hbytes : bytes = f.headerBytes) : FrameOutcome s bytes (s.withFrame f) false :=
  .goesOn ⟨hm, [], State.hasPayload_nil h0, hbytes.trans (List.append_nil _).symm⟩ rfl

theorem wireVarint_of_le {v : Nat} (h : v ≤ 127) : wireVarint v = [BitVec.ofNat 8 v] := if_pos (Nat.lt_succ_of_le h)

/-- A second varint byte that is not 0 counts in units of 128 (30_encoding.md R91). -/
theorem wireVarint_twoBytes {v : Nat} (hv : v ≤ 127) (hb : b ≠ 0) :
    wireVarint (v + 128 * b.toNat) = [BitVec.ofNat 8 v, b] := by
  have hpos : b.toNat ≠ 0 := fun h0 => hb (BitVec.eq_of_toNat_eq h0)
  have hmod : (v + 128 * b.toNat) % 128 = v := by omega
  have hdiv : (v + 128 * b.toNat) / 128 = b.toNat := by omega
  rw [wireVarint, if_neg (by omega), hmod, hdiv, ofNat_toNat_byte]

theorem State.ByteInv.frameOutcome_lenB0 (h : s.ByteInv) (hr : s.HasReceived done) (hp : s.frame.phase = .lenB0)
    (hd : s.decodeStep b = .ok t) : FrameOutcome s (done ++ [b]) t false := by
  have hf := h.frameFits hr.mode
  simp only [Frame.Fits, hp] at hf
  obtain ⟨-, -, -, h0⟩ := hf
  rw [hr.eq_headerBytes h0]
  cases (State.decodeStep_lenB0 hp b).symm.trans hd
  split
  · exact frameOutcome_headerFail _ _
  · next hgood =>
    refine frameOutcome_withFrame hr.mode h0 ?_
    split <;> simp only [Frame.headerBytes, hp, toNat_ofNat_byte, wireVarint_of_le (show b.toNat ≤ 127 by omega),
      ofNat_toNat_byte, List.nil_append]

theorem State.ByteInv.frameOutcome_lenB1 (h : s.ByteInv) (hr : s.HasReceived done) (hp : s.frame.phase = .lenB1)
    (hd : s.decodeStep b = .ok t) : FrameOutcome s (done ++ [b]) t false := by
  have hf := h.frameFits hr.mode
  simp only [Frame.Fits, hp] at hf
  obtain ⟨-, hl, -, -, h0⟩ := hf
  rw [hr.eq_headerBytes h0]
  cases (State.decodeStep_lenB1 hp hl b).symm.trans hd
  split
  · exact frameOutcome_headerFail _ _
  · next hgood =>
    refine frameOutcome_withFrame hr.mode h0 ?_
    simp only [Frame.headerBytes, hp, toNat_ofNat_twoBytes hl, wireVarint_twoBytes hl (not_or.1 hgood).1, List.cons_append,
      List.nil_append]

/-- A completed type: the header of an empty payload is a whole frame, another goes on to its checksum (45_decoder.md R188). -/
theorem State.frameOutcome_typed (hm : s.sync.mode = .inFrame) (h0 : s.frame.rxCount = 0)
    (hl : s.frame.LenFits s.params s.cfg) {v : Word} (hv : fitsForm s.cfg.typeForm v)
    (hbytes : bytes = wireVarint s.frame.rxLen.toNat ++ wireVarint v.toNat) : FrameOutcome s bytes (s.typed v) false := by
  subst hbytes
  by_cases hempty : s.frame.rxLen = 0
  · rw [State.typed_of_empty hempty, hempty]
    obtain ⟨ht, htype⟩ := fitsForm_iff.1 hv
    obtain ⟨-, hlen⟩ := hl
    rw [hempty] at hlen
    refine .delivers (fun _ => rfl) _ rfl ⟨rfl, ht, Nat.zero_le _, (fitsForm_iff.1 hlen).2, htype⟩ ?_
    simp [wireBody, wireChecksum]
  · rw [State.typed_of_nonempty hempty]
    exact frameOutcome_withFrame hm h0 rfl

theorem State.ByteInv.frameOutcome_typeB0 (h : s.ByteInv) (hr : s.HasReceived done) (hp : s.frame.phase = .typeB0)
    (hd : s.decodeStep b = .ok t) : FrameOutcome s (done ++ [b]) t false := by
  have hf := h.frameFits hr.mode
  simp only [Frame.Fits, hp] at hf
  obtain ⟨hl, -, -, h0⟩ := hf
  rw [hr.eq_headerBytes h0]
  cases (State.decodeStep_typeB0 hp b).symm.trans hd
  split
  · exact frameOutcome_headerFail _ _
  · next h7 =>
    split
    · refine frameOutcome_withFrame hr.mode h0 ?_
      simp only [Frame.headerBytes, hp, toNat_ofNat_byte, ofNat_toNat_byte]
    · next hone =>
      have hform : s.cfg.typeForm = .one := by cases hc : s.cfg.typeForm <;> simp_all
      have hv : fitsForm s.cfg.typeForm (BitVec.ofNat 16 b.toNat) := by
        rw [hform, fitsForm, toNat_ofNat_byte]
        omega
      refine State.frameOutcome_typed hr.mode h0 hl hv ?_
      simp only [Frame.headerBytes, hp, toNat_ofNat_byte, wireVarint_of_le (show b.toNat ≤ 127 by omega), ofNat_toNat_byte]

theorem State.ByteInv.frameOutcome_typeB1 (h : s.ByteInv) (hr : s.HasReceived done) (hp : s.frame.phase = .typeB1)
    (hd : s.decodeStep b = .ok t) : FrameOutcome s (done ++ [b]) t false := by
  have hf := h.frameFits hr.mode
  simp only [Frame.Fits, hp] at hf
  obtain ⟨hform, hl, hfirst, -, h0⟩ := hf
  rw [hr.eq_headerBytes h0]
  cases (State.decodeStep_typeB1 hp b).symm.trans hd
  split
  · exact frameOutcome_headerFail _ _
  · next hne =>
    have hv : fitsForm s.cfg.typeForm (BitVec.ofNat 16 (s.frame.rxType.toNat + 128 * b.toNat)) := by
      rw [hform]
      exact varintDecodeTwoSecond_fits hfirst (by rw [varintDecodeTwoSecond_eq, if_neg hne])
    refine State.frameOutcome_typed hr.mode h0 hl hv ?_
    simp only [Frame.headerBytes, hp, toNat_ofNat_twoBytes hfirst, wireVarint_twoBytes hfirst hne, List.append_assoc,
      List.cons_append, List.nil_append]

theorem State.ByteInv.frameOutcome_csB0 (h : s.ByteInv) (hr : s.HasReceived done) (hp : s.frame.phase = .csB0)
    (hd : s.decodeStep b = .ok t) : FrameOutcome s (done ++ [b]) t false := by
  have hf := h.frameFits hr.mode
  simp only [Frame.Fits, hp] at hf
  obtain ⟨-, hpos, -, -, h0⟩ := hf
  rw [hr.eq_headerBytes h0]
  cases (State.decodeStep_csB0 hp hpos b).symm.trans hd
  refine frameOutcome_withFrame hr.mode h0 ?_
  split
  · simp only [Frame.headerBytes, hp, loByte_setWidth]
  · next hshort => simp only [Frame.headerBytes, hp, csBytes_setWidth hpos (Nat.not_le.1 hshort)]

theorem State.ByteInv.frameOutcome_csB1 (h : s.ByteInv) (hr : s.HasReceived done) (hp : s.frame.phase = .csB1)
    (hd : s.decodeStep b = .ok t) : FrameOutcome s (done ++ [b]) t false := by
  have hf := h.frameFits hr.mode
  simp only [Frame.Fits, hp] at hf
  obtain ⟨-, hwide, -, hx, h0⟩ := hf
  rw [hr.eq_headerBytes h0]
  cases (State.decodeStep_csB1 hp hx b).symm.trans hd
  refine frameOutcome_withFrame hr.mode h0 ?_
  simp only [Frame.headerBytes, hp, csBytes_of_le hwide, loByte_u16, hiByte_u16, List.append_assoc, List.cons_append,
    List.nil_append]

theorem State.ByteInv.frameOutcome_payload (h : s.ByteInv) (hr : s.HasReceived done) (hp : s.frame.phase = .payload)
    (hd : s.decodeStep b = .ok t) : FrameOutcome s (done ++ [b]) t false := by
  obtain ⟨hm, got, hg, rfl⟩ := hr
  have hf := h.frameFits hm
  simp only [Frame.Fits, hp] at hf
  obtain ⟨⟨hl, hlen⟩, hcount, hv, -⟩ := hf
  obtain ⟨-, -, hlegal⟩ := h.paramsLegal
  cases (h.decodeStep_payload hm hp hg b).symm.trans hd
  split
  · next hlast =>
    have hall : (got ++ [b]).length = s.frame.rxLen.toNat := by simp [hg.count, hlast]
    split
    · next hmatch =>
      rw [csMatch_iff_csBytes, csBytes_checksum16_eq_wireChecksum, hall] at hmatch
      obtain ⟨ht, htype⟩ := fitsForm_iff.1 hv
      refine .delivers (fun _ => rfl) _ rfl
        ⟨rfl, ht, hall.trans_le hl, (fitsForm_iff.1 hlen).2.trans (congrArg _ hall.symm), htype⟩ ?_
      simp only [wireBody, hall, hmatch, Frame.headerBytes, hp, List.append_assoc, List.prefix_rfl]
    · exact .fails (fun _ => rfl) rfl
  · refine .goesOn ⟨hm, _, hg.storePayload (by omega) b, ?_⟩ rfl
    simp only [State.storePayload, Frame.headerBytes, hp, List.append_assoc]

/-- What one byte does to the frame in progress (45_decoder.md R180). -/
theorem State.ByteInv.frameOutcome_decodeStep (h : s.ByteInv) (hr : s.HasReceived done) (hd : s.decodeStep b = .ok t) :
    FrameOutcome s (done ++ [b]) t false := by
  cases hp : s.frame.phase with
  | lenB0 => exact h.frameOutcome_lenB0 hr hp hd
  | lenB1 => exact h.frameOutcome_lenB1 hr hp hd
  | typeB0 => exact h.frameOutcome_typeB0 hr hp hd
  | typeB1 => exact h.frameOutcome_typeB1 hr hp hd
  | csB0 => exact h.frameOutcome_csB0 hr hp hd
  | csB1 => exact h.frameOutcome_csB1 hr hp hd
  | payload => exact h.frameOutcome_payload hr hp hd

/-! ## A burst -/

/-- A hunting engine delivers nothing, and hunts on where it completes no marker. -/
theorem State.ByteInv.absorb_hunting_outputs (h : s.ByteInv) (hm : s.sync.mode = .hunting)
    (ha : absorb data s = .ok (t, locked)) : (locked = false → t.sync.mode = .hunting) ∧ t.outputs = s.outputs := by
  induction data generalizing s with
  | nil => cases ha; exact ⟨fun _ => hm, rfl⟩
  | cons b data ih =>
    have hstep := h.processByte_hunting hm b
    rw [h.absorb_hunting hm] at ha
    split at ha
    · cases ha; exact ⟨nofun, rfl⟩
    · next hne =>
      rw [if_neg hne] at hstep
      exact ih (s := s.huntAt _) (h.processByte hstep) rfl ha

/-- What a burst does to the frame in progress: bytes behind its end are hunted. -/
theorem State.ByteInv.frameOutcome_absorb (h : s.ByteInv) (hr : s.HasReceived done)
    (ha : absorb data s = .ok (t, locked)) : FrameOutcome s (done ++ data) t locked := by
  induction data generalizing s done with
  | nil => cases ha; exact .goesOn (by simpa using hr) rfl
  | cons b data ih =>
    obtain ⟨u, hu⟩ := h.exists_decodeStep_eq_ok hr.mode b
    have hui := h.decodeStep hr.mode hu
    obtain ⟨hframe, -⟩ := byteFrame_decodeStep hu
    rw [absorb_inFrame hr.mode hu] at ha
    rw [List.append_cons]
    cases h.frameOutcome_decodeStep hr hu with
    | goesOn hr' hout =>
      cases ih hui hr' ha with
      | goesOn hr'' hout' => exact .goesOn hr'' (hout'.trans hout)
      | fails hunt hout' => exact .fails hunt (hout'.trans hout)
      | delivers hunt packet hout' hfits hwhole =>
        exact .delivers hunt packet (by rw [hout', hout]) (by rwa [hframe.params, hframe.cfg] at hfits) hwhole
    | fails hunt hout =>
      obtain ⟨hunt', hout'⟩ := hui.absorb_hunting_outputs (hunt rfl) ha
      exact .fails hunt' (hout'.trans hout)
    | delivers hunt packet hout hfits hwhole =>
      obtain ⟨hunt', hout'⟩ := hui.absorb_hunting_outputs (hunt rfl) ha
      exact .delivers hunt' packet (hout'.trans hout) hfits (hwhole.trans (List.prefix_append _ _))

end

end Sys2Proof.Machine
end

section
/-! What is delivered, and what is received back (45_decoder.md R193, R198, R199). -/

namespace Sys2Proof.Machine

/-! ## The decoder accepts the encoder's frames -/

/-- A valid frame at the start of a burst is delivered, and the bytes behind it are hunted. -/
theorem State.ByteInv.absorb_of_prefix {s t : State} {data : List Byte} {locked : Bool} {packet : Packet} (h : s.ByteInv)
    (hm : s.sync.mode = .inFrame) (hf : s.frame = Frame.reset) (hfits : packet.FitsConfig s.params s.cfg)
    (hwhole : wireBody packet.type.toNat packet.payload <+: data) (ha : absorb data s = .ok (t, locked)) :
    t.outputs = s.outputs ++ [.packet packet] := by
  obtain ⟨hchan, htype, hlen, hlform, htform⟩ := hfits
  obtain ⟨-, -, hlegal⟩ := h.paramsLegal
  obtain ⟨m, hbody⟩ := absorb_wireBody hm hf hlegal hlen htype hlform htform
  obtain ⟨rest, rfl⟩ := hwhole
  rcases absorb_append_eq_ok.1 ha with ⟨hlock, -⟩ | ⟨u, hu, hrest⟩
  · cases hbody.symm.trans hlock
  · cases hbody.symm.trans hu
    rw [((h.afterBurst hbody).absorb_hunting_outputs rfl hrest).2, ← hchan]
    rfl

/-- At LEN_B0 every field of the frame is 0 (45_decoder.md R181). -/
theorem State.ByteInv.frame_eq_reset {s : State} (h : s.ByteInv) (hm : s.sync.mode = .inFrame)
    (hp : s.frame.phase = .lenB0) : s.frame = Frame.reset := by
  have hf := h.frameFits hm
  simp only [Frame.Fits, hp] at hf
  obtain ⟨hlen, htype, hcsx, hcount⟩ := hf
  cases hs : s.frame
  simp_all [Frame.reset]

/-- Settles O45: whatever is delivered is spelled by the bytes received, and a frame they spell is delivered. -/
theorem decoderAcceptsExactlyEncodedFrames : Obligations.DecoderAcceptsExactlyEncodedFrames := by
  intro s burst packet h hv hm hp hl
  have hb := h.byteInv hv
  have hf := hb.frame_eq_reset hm hp
  obtain ⟨a, locked, ha, hnext⟩ := h.exists_execReceive_eq_next hv hl
  refine ⟨_, hnext, ?_⟩
  have hout : a.outputs ++ [.response (.code .ok)] = s.outputs ++ [.packet packet, .response (.code .ok)] ↔
      a.outputs = s.outputs ++ [.packet packet] := by
    rw [List.append_cons s.outputs, List.append_left_inj]
  refine hout.trans ⟨fun hdelivered => ?_, fun ⟨hchan, htype, hlen, hlform, htform, hwhole⟩ =>
    hb.absorb_of_prefix hm hf ⟨hchan, htype, hlen, hlform, htform⟩ hwhole ha⟩
  cases hb.frameOutcome_absorb (State.hasReceived_nil hm hf) ha with
  | goesOn _ hnone => simp [hnone] at hdelivered
  | fails _ hnone => simp [hnone] at hdelivered
  | delivers _ other hother hfits hwhole =>
    obtain rfl : other = packet := by simpa [hother] using hdelivered
    obtain ⟨hchan, htype, hlen, hlform, htform⟩ := hfits
    exact ⟨hchan, htype, hlen, hlform, htform, hwhole⟩

/-! ## Received back -/

/-- From M = 0 the engine locks on the last byte of its marker, whatever the marker: no byte of it breaks the match. -/
theorem State.ByteInv.takesAll_markerBytes {s : State} (h : s.ByteInv) (hm : s.sync.mode = .hunting) (h0 : s.sync.m = 0) :
    TakesAll s.cfg.markerBytes s s.enterFrame := by
  obtain ⟨hn, h8⟩ := h.matchCount hm
  have hlen := ChannelConfig.length_markerBytes h8
  have hno : ¬ s.cfg.markerBytes <:+: s.cfg.markerBytes.dropLast := fun hocc => by
    have := hocc.length_le
    rw [List.length_dropLast] at this
    omega
  obtain ⟨m, -, hbefore, -⟩ := h.absorb_of_absent hm h0 hno
  have hlock := h.absorb_rest_of_marker hm (pre := []) rfl (by simp [h0]) []
  rw [List.append_nil] at hlock
  exact ⟨true, hlock, fun _ => ⟨_, hbefore⟩⟩

theorem length_wireBody_pos (type : Nat) (p : List Byte) : 0 < (wireBody type p).length := by
  simp only [wireBody, List.length_append, length_wireVarint]
  split <;> omega

/-- Behind the marker a valid frame is in progress, with nothing delivered, until its last byte (45_decoder.md R198). -/
theorem State.ByteInv.absorb_body_dropLast {s : State} {packet : Packet} (h : s.ByteInv) (hm : s.sync.mode = .inFrame)
    (hf : s.frame = Frame.reset) (hfits : packet.FitsConfig s.params s.cfg) :
    ∃ u, absorb (wireBody packet.type.toNat packet.payload).dropLast s = .ok (u, false) ∧
      u.sync.mode = .inFrame ∧ u.outputs = s.outputs := by
  have ⟨_, htype, hlen, hlform, htform⟩ := hfits
  obtain ⟨-, -, hlegal⟩ := h.paramsLegal
  obtain ⟨m, hbody⟩ := absorb_wireBody hm hf hlegal hlen htype hlform htform
  have hpos := length_wireBody_pos packet.type.toNat packet.payload
  generalize hw : wireBody packet.type.toNat packet.payload = body at hbody hpos ⊢
  have hne := List.length_pos_iff.1 hpos
  have hbody' := hbody
  rw [← List.dropLast_append_getLast hne] at hbody'
  obtain ⟨u, hu, hlast⟩ : ∃ u, absorb body.dropLast s = .ok (u, false) ∧ absorb [body.getLast hne] u = .ok (_, false) :=
    (absorb_append_eq_ok.1 hbody').resolve_left fun ⟨_, hlock⟩ => nomatch hlock
  have hdelivered := h.absorb_of_prefix hm hf hfits (hw ▸ List.prefix_rfl) hbody
  have hunted : u.sync.mode = .hunting → u.outputs = s.outputs ++ [.packet packet] := fun hunting =>
    ((h.afterBurst hu).absorb_hunting_outputs hunting hlast).2.symm.trans hdelivered
  refine ⟨u, hu, ?_⟩
  cases h.frameOutcome_absorb (State.hasReceived_nil hm hf) hu with
  | goesOn hr hnone => exact ⟨hr.mode, hnone⟩
  | fails hunt hnone => simp [hunted (hunt rfl)] at hnone
  | delivers hunt other hother _ hwhole =>
    obtain rfl : packet = other := by simpa [hunted (hunt rfl)] using hother
    have := hwhole.length_le
    rw [hw, List.nil_append, List.length_dropLast] at this
    omega

/-- Bursts of the marker and of bytes behind it that complete no other: what absorbing those bytes does. -/
theorem State.Inv.runCommands_behind_marker {s u : State} {head bursts : List (List Byte)} (h : s.Inv)
    (hv : s.cfg.valid = true) (hm : s.sync.mode = .hunting) (h0 : s.sync.m = 0) (hhead : head.flatten = s.cfg.markerBytes)
    (hl : ∀ w ∈ head ++ bursts, w.length ≤ s.params.ringCapacity - 1)
    (ha : absorb bursts.flatten s.enterFrame = .ok (u, false)) :
    ∃ t, runCommands ((head ++ bursts).map .receive) s = .next t ∧ SamePackets u t := by
  have hlt : ∀ w ∈ head ++ bursts, w.length < s.params.ringCapacity := fun w hw =>
    (hl w hw).trans_lt (Nat.sub_lt h.capacity_pos Nat.one_pos)
  obtain ⟨t1, hrun1, hinv1, hparams1, hsame1⟩ := (SamePackets.refl s).runCommands h hv
    (fun w hw => hlt w (List.mem_append_left _ hw)) (hhead ▸ (h.byteInv hv).takesAll_markerBytes hm h0)
  obtain ⟨t2, hrun2, -, -, hsame2⟩ := hsame1.runCommands hinv1 (hsame1.visible.cfg ▸ hv)
    (fun w hw => hparams1 ▸ hlt w (List.mem_append_right _ hw)) (.of_unlocked ha)
  refine ⟨t2, ?_, hsame2⟩
  rw [List.map_append]
  exact runCommands_append_eq_next hrun1 hrun2

/-- Settles O44: the marker locks the engine on its last byte, and its frame is in progress from there to its last byte. -/
theorem encodedFrameIsReceivedBack : Obligations.EncodedFrameIsReceivedBack := by
  intro s type p head h hv hm h0 hp ht hlen htype hhead
  have hb := h.byteInv hv
  obtain ⟨-, -, hlegal⟩ := h.paramsLegal
  have henc := encodeFrame_eq_some_iff (c := s.cfg).2 ⟨hp.trans hlegal, ht, rfl⟩
  refine ⟨_, henc, fun body hflat hl => ?_, fun short hflat hl => ?_⟩
  · rw [List.flatten_append, hhead, wireFrame, List.append_cancel_left_eq] at hflat
    obtain ⟨m, hbody⟩ := absorb_wireBody (s := s.enterFrame) rfl rfl hlegal hp ht hlen htype
    obtain ⟨t, hrun, hsame⟩ := h.runCommands_behind_marker hv hm h0 hhead hl (hflat ▸ hbody)
    exact ⟨t, hrun, hsame.packets.trans (packetRecords_append _ _), hsame.visible.sync.symm, hsame.visible.flags.symm⟩
  · have hne := List.length_pos_iff.1 (length_wireBody_pos type.toNat p)
    rw [List.flatten_append, hhead, wireFrame, List.dropLast_append_of_ne_nil hne, List.append_cancel_left_eq] at hflat
    obtain ⟨u, hu, hmode, hout⟩ := hb.enterFrame.absorb_body_dropLast
      (packet := { chan := s.cfg.chanId, type := type, payload := p }) rfl rfl ⟨rfl, ht, hp, hlen, htype⟩
    obtain ⟨t, hrun, hsame⟩ := h.runCommands_behind_marker hv hm h0 hhead hl (hflat ▸ hu)
    exact ⟨t, hrun, hsame.packets.trans (congrArg packetRecords hout), hsame.visible.sync ▸ hmode⟩

/-! ## Whatever is received -/

/-- The engine `t` has delivered what `s` had, and after it packets that fit the configuration. -/
structure DeliversFitting (s t : State) : Prop where
  params : t.params = s.params
  cfg : t.cfg = s.cfg
  packets : ∃ ps, packetRecords t.outputs = packetRecords s.outputs ++ ps ∧ ∀ p ∈ ps, Packet.FitsConfig p s.params s.cfg

section
variable {s t u : State} {b : Byte} {data : List Byte}

theorem DeliversFitting.of_packets_eq (hp : t.params = s.params) (hc : t.cfg = s.cfg)
    (h : packetRecords t.outputs = packetRecords s.outputs) : DeliversFitting s t :=
  ⟨hp, hc, [], by rw [h, List.append_nil], nofun⟩

theorem DeliversFitting.trans (h : DeliversFitting s t) (h' : DeliversFitting t u) : DeliversFitting s u := by
  obtain ⟨hp, hc, ps, hps, hfit⟩ := h
  obtain ⟨hp', hc', qs, hqs, hfit'⟩ := h'
  rw [hp, hc] at hfit'
  exact ⟨hp'.trans hp, hc'.trans hc, ps ++ qs, by rw [hqs, hps, List.append_assoc],
    fun p hmem => (List.mem_append.1 hmem).elim (hfit p) (hfit' p)⟩

theorem deliversFitting_respond (s : State) (r : RingBuffer) (c : ResponseCode) :
    DeliversFitting s ((s.withRing r).respond c) :=
  .of_packets_eq rfl rfl ((packetRecords_append _ _).trans (List.append_nil _))

/-- A byte delivers a packet that fits, or none. -/
theorem State.ByteInv.deliversFitting_processByte (h : s.ByteInv) (hd : s.processByte b = .ok t) : DeliversFitting s t := by
  obtain ⟨hframe, -⟩ := byteFrame_processByte hd
  cases hm : s.sync.mode with
  | hunting =>
    have hnext := (h.processByte_hunting hm b).symm.trans hd
    refine .of_packets_eq hframe.params hframe.cfg ?_
    cases hnext
    split <;> rfl
  | inFrame =>
    obtain ⟨done, hr⟩ := h.exists_hasReceived hm
    rw [State.processByte, hm] at hd
    cases h.frameOutcome_decodeStep hr hd with
    | goesOn _ hout => exact .of_packets_eq hframe.params hframe.cfg (congrArg _ hout)
    | fails _ hout => exact .of_packets_eq hframe.params hframe.cfg (congrArg _ hout)
    | delivers _ packet hout hfits _ =>
      exact ⟨hframe.params, hframe.cfg, [packet], by rw [hout, packetRecords_append]; rfl, by simpa using hfits⟩

/-- So does a RECEIVE of any burst: one that overflows delivers nothing. -/
theorem State.Inv.deliversFitting_receive (h : s.Inv) (hv : s.cfg.valid = true)
    (hnext : Machine.exec (.receive data) s = .next t) : DeliversFitting s t := by
  rcases Nat.lt_or_ge data.length s.params.ringCapacity with hl | hl
  · obtain ⟨a, locked, ha, hnext'⟩ := h.exists_execReceive_eq_next hv hl
    cases hnext'.symm.trans hnext
    have hburst : a.ByteInv ∧ DeliversFitting s a :=
      absorb_keeps (P := fun v => v.ByteInv ∧ DeliversFitting s v)
        (fun _ _ _ hs hp => ⟨hs.1.processByte hp, hs.2.trans (hs.1.deliversFitting_processByte hp)⟩)
        ⟨h.byteInv hv, .of_packets_eq rfl rfl rfl⟩ ha
    exact hburst.2.trans (deliversFitting_respond _ _ _)
  · cases (execReceive_overflow hv h.ringDrained hl h.capacity_pos).symm.trans hnext
    exact .of_packets_eq rfl rfl ((packetRecords_append _ _).trans (List.append_nil _))

/-- So does a run of them. -/
theorem State.Inv.deliversFitting_runCommands {bursts : List (List Byte)} (h : s.Inv) (hv : s.cfg.valid = true)
    (hrun : runCommands (bursts.map .receive) s = .next t) : DeliversFitting s t := by
  induction bursts generalizing s with
  | nil => cases hrun; exact .of_packets_eq rfl rfl rfl
  | cons w bursts ih =>
    obtain ⟨u, hex, hrest⟩ := runCommands_cons_eq_next.1 hrun
    exact (h.deliversFitting_receive hv hex).trans (ih (h.exec hex) (exec_cfg hv hex ▸ hv) hrest)

end

/-- Settles O46: a packet is delivered by the last byte of a frame of its channel, type and payload. -/
theorem deliveredPacketsFitTheForms : Obligations.DeliveredPacketsFitTheForms := by
  intro s t bursts packet h hv hrun hmem
  obtain ⟨-, -, ps, hps, hfits⟩ := h.deliversFitting_runCommands hv hrun
  rw [hps, List.drop_left] at hmem
  exact hfits packet hmem

end Sys2Proof.Machine
end

section
/-! The five commands that take no burst, each against its rule (46_commands.md R204 to R224): what CONFIGURE stores and refuses,
what SEND emits, which register a number names, and that an unconfigured engine refuses (R214). -/

namespace Sys2Proof.Machine

/-! ## CONFIGURE -/

section
variable {chan : Byte} {rsv : BitVec 2} {mk : List Byte}

/-- What CONFIGURE refuses with BAD_CONFIG (46_commands.md R204). -/
theorem configLegal_eq_false_iff {p : Params} : configLegal p chan rsv mk = false ↔
    p.numChannels ≤ chan.toNat ∨ mk.length = 0 ∨ 8 < mk.length ∨ rsv ≠ 0 := by
  rw [← Bool.not_eq_true, configLegal_iff]
  simp only [not_and_or, Nat.not_lt, Nat.not_le, Nat.lt_one_iff]
  rfl

/-- CONFIGURE stores the marker's bytes in order, and 0 behind them (46_commands.md R204). -/
theorem padMarker_getElem {i : Nat} (h : i < 8) : (padMarker mk)[i] = if h' : i < mk.length then mk[i] else 0 := by
  split
  · next h' =>
    have hget : (padMarker mk)[i] = mk.getD i 0 := by
      unfold padMarker
      interval_cases i <;> rfl
    rw [hget, List.getD_eq_getElem _ _ h']
  · next h' => exact padMarker_eq_zero h (Nat.le_of_not_lt h')

/-- The number N stored is the marker's length, as long as it fits its four bits (10_state.md R22). -/
theorem configOf_n_toNat {lf tf : Form} (h : mk.length ≤ 8) : (configOf chan lf tf mk).n.toNat = mk.length :=
  Nat.mod_eq_of_lt (show mk.length < 2 ^ 4 by omega)

end

/-- Settles O12: the three ways of CONFIGURE, the last one with the state it leaves field by field. -/
theorem configureWritesOrRefuses : Obligations.ConfigureWritesOrRefuses := by
  intro s chan lf tf rsv mk bad
  refine ⟨fun hv => execConfigure_eq_next.2 (.inl ⟨hv, rfl⟩),
    fun hv hbad => execConfigure_eq_next.2 (.inr (.inl ⟨hv, configLegal_eq_false_iff.2 hbad, rfl⟩)), fun hv hgood => ?_⟩
  have hlegal : configLegal s.params chan rsv mk = true := Bool.of_not_eq_false (mt configLegal_eq_false_iff.1 hgood)
  obtain ⟨-, -, h8, -⟩ := configLegal_iff.1 hlegal
  exact ⟨_, execConfigure_eq_next.2 (.inr (.inr ⟨hv, hlegal, rfl⟩)), rfl, rfl, configOf_n_toNat (chan := chan) h8,
    fun i h => padMarker_getElem h, rfl, rfl, rfl, rfl, rfl, rfl, rfl, rfl, rfl, rfl, rfl⟩

/-! ## SEND -/

/-- The encoder refuses exactly the lengths and types that no varint expresses (44_encoder.md R171). -/
theorem encodeFrame_eq_none_iff {c : ChannelConfig} {type : Word} {p : List Byte} :
    encodeFrame c type p = none ↔ 32767 < p.length ∨ 32767 < type.toNat := by
  simp only [Option.eq_none_iff_forall_ne_some, ne_eq, encodeFrame_eq_some_iff, not_and]
  constructor
  · intro h
    by_contra hin
    exact h _ (by omega) (by omega) rfl
  · omega

/-- Settles O13: the encoder's frame is that of the wire format, and it has none outside both ranges. -/
theorem sendEmitsTheWireFrame : Obligations.SendEmitsTheWireFrame := by
  intro s type p
  refine ⟨fun hv => execSend_eq_next.2 (.inl ⟨hv, rfl⟩),
    fun hv hout => execSend_eq_next.2 (.inr (.inl ⟨hv, encodeFrame_eq_none_iff.2 hout, rfl⟩)), fun hv hp ht => ?_⟩
  refine execSend_eq_next.2 (.inr (.inr ⟨hv, _, encodeFrame_eq_some_iff.2 ⟨hp, ht, rfl⟩, ?_⟩))
  simp [State.respond, State.emitTx, State.emit, ChannelConfig.markerBytes]

/-! ## RESYNC, READ_REG and CLEAR_STATUS -/

/-- Settles O14: the two ways of RESYNC. -/
theorem resyncResetsTheChannel : Obligations.ResyncResetsTheChannel := fun _ =>
  ⟨fun hv => execResync_eq_next.2 (.inl ⟨hv, rfl⟩), fun hv => execResync_eq_next.2 (.inr ⟨hv, rfl⟩)⟩

/-- A register's number names it (10_state.md R32). -/
theorem RegName.ofNumber_number (r : RegName) : RegName.ofNumber r.number = some r := by
  cases r <;> decide

/-- Settles O15: the map lists every register by its number with its value, and no larger number names one. -/
theorem readRegAnswersTheRegister : Obligations.ReadRegAnswersTheRegister := by
  refine fun s => ⟨fun r v hmem => ?_, fun r hr => execReadReg_eq_next.2 (.inl ⟨RegName.ofNumber_eq_none.2 hr, rfl⟩)⟩
  obtain ⟨name, -, hname⟩ : ∃ name ∈ RegName.all, (name.number.toNat, s.regValue name) = (r.toNat, v) :=
    List.mem_map.1 hmem
  obtain ⟨hnum, rfl⟩ := Prod.mk.inj hname
  obtain rfl : name.number = r := BitVec.eq_of_toNat_eq hnum
  exact execReadReg_eq_next.2 (.inr ⟨name, name.ofNumber_number, rfl⟩)

/-- Settles O17: CLEAR_STATUS does one thing. -/
theorem clearStatusClearsOnlyTheFlags : Obligations.ClearStatusClearsOnlyTheFlags := fun _ =>
  execClearStatus_eq_next.2 rfl

/-! ## An unconfigured engine -/

section
variable {s : State} {i : Instr}

/-- While unconfigured, RECEIVE, SEND and RESYNC are refused whatever their operands (46_commands.md R214). -/
theorem exec_unconfigured_refuses (hv : s.cfg.valid = false)
    (hi : (∃ data, i = .receive data) ∨ (∃ type p, i = .send type p) ∨ i = .resync) :
    exec i s = .next (s.respond .notConfigured) := by
  rcases hi with ⟨data, rfl⟩ | ⟨type, p, rfl⟩ | rfl
  · exact execReceive_eq_next.2 (.inl ⟨hv, rfl⟩)
  · exact execSend_eq_next.2 (.inl ⟨hv, rfl⟩)
  · exact execResync_eq_next.2 (.inl ⟨hv, rfl⟩)

/-- While unconfigured, the other three answer, and never with NOT_CONFIGURED (46_commands.md R214). -/
theorem exec_unconfigured_accepts (hv : s.cfg.valid = false)
    (hi : (∃ chan lf tf rsv mk, i = .configure chan lf tf rsv mk) ∨ (∃ r, i = .readReg r) ∨ i = .clearStatus) :
    ∃ t r, exec i s = .next t ∧ t.outputs = s.outputs ++ [.response r] ∧ r ≠ .code .notConfigured := by
  rcases hi with ⟨chan, lf, tf, rsv, mk, rfl⟩ | ⟨n, rfl⟩ | rfl
  · cases hl : configLegal s.params chan rsv mk with
    | false => exact ⟨_, .code .badConfig, execConfigure_eq_next.2 (.inr (.inl ⟨hv, hl, rfl⟩)), rfl, by simp⟩
    | true => exact ⟨_, .code .ok, execConfigure_eq_next.2 (.inr (.inr ⟨hv, hl, rfl⟩)), rfl, by simp⟩
  · cases hn : RegName.ofNumber n with
    | none => exact ⟨_, .code .badRegister, execReadReg_eq_next.2 (.inl ⟨hn, rfl⟩), rfl, by simp⟩
    | some r => exact ⟨_, .value (s.regValue r), execReadReg_eq_next.2 (.inr ⟨r, hn, rfl⟩), rfl, by simp⟩
  · exact ⟨_, .code .ok, execClearStatus_eq_next.2 rfl, rfl, by simp⟩

end

/-- Settles O18: three commands are refused before their operands are looked at, a step having consumed them all the same. -/
theorem unconfiguredEngineRefuses : Obligations.UnconfiguredEngineRefuses := fun _ hv =>
  ⟨fun _ hi =>
    have hrefused := exec_unconfigured_refuses hv hi
    ⟨hrefused, fun rest hw hr => step_encode rest hw hr hrefused⟩,
  fun _ => exec_unconfigured_accepts hv⟩

end Sys2Proof.Machine
end

section
/-! RECEIVE as a whole (46_commands.md R210): its bytes in order without the ring, and what it emits. -/

namespace Sys2Proof.Machine

/-- Settles O20: a burst that fits is absorbed, and the ring is the written one, drained. -/
theorem receiveProcessesItsBytesInOrder : Obligations.ReceiveProcessesItsBytesInOrder := by
  intro s data h hv hl
  obtain ⟨a, locked, ha, hnext⟩ := h.exists_execReceive_eq_next hv hl
  refine ⟨a, locked, ha, hnext.trans ?_⟩
  cases locked <;> rfl

section
variable {s t : State} {data : List Byte} {locked : Bool}

/-- A burst delivers at most one packet: the bytes behind the end of a frame are hunted, and those behind a marker are lost
(45_decoder.md R197, 41_synchronizer.md R123). -/
theorem State.ByteInv.absorb_outputs (h : s.ByteInv) (ha : absorb data s = .ok (t, locked)) :
    ∃ packets : List Packet, packets.length ≤ 1 ∧ t.outputs = s.outputs ++ packets.map .packet := by
  cases hm : s.sync.mode with
  | hunting => exact ⟨[], Nat.zero_le 1, by simp [(h.absorb_hunting_outputs hm ha).2]⟩
  | inFrame =>
    obtain ⟨done, hr⟩ := h.exists_hasReceived hm
    cases h.frameOutcome_absorb hr ha with
    | goesOn _ hout => exact ⟨[], Nat.zero_le 1, by simp [hout]⟩
    | fails _ hout => exact ⟨[], Nat.zero_le 1, by simp [hout]⟩
    | delivers _ packet hout => exact ⟨[packet], le_rfl, hout⟩

/-- Between commands RECEIVE completes with at most one packet, then OK, a burst that overflows with none. -/
theorem State.Inv.exists_exec_receive (h : s.Inv) (hv : s.cfg.valid = true) (data : List Byte) :
    ∃ (t : State) (packets : List Packet), Machine.exec (.receive data) s = .next t ∧ packets.length ≤ 1 ∧
      t.outputs = s.outputs ++ packets.map .packet ++ [.response (.code .ok)] ∧ t.params = s.params := by
  rcases Nat.lt_or_ge data.length s.params.ringCapacity with hl | hl
  · obtain ⟨a, locked, ha, hnext⟩ := h.exists_execReceive_eq_next hv hl
    obtain ⟨packets, hone, hout⟩ := (h.byteInv hv).absorb_outputs ha
    exact ⟨_, packets, hnext, hone, congrArg (· ++ _) hout, (absorb_params_cfg ha).1⟩
  · exact ⟨_, [], execReceive_overflow hv h.ringDrained hl h.capacity_pos, Nat.zero_le 1, by simp, rfl⟩

/-- Between commands, writing no byte to the ring leaves the engine as it was (40_ring_buffer.md R103). -/
theorem State.Inv.ringWrite_nil (h : s.Inv) : s.ringWrite [] = some s := by
  obtain ⟨-, hwr⟩ := h.cursorsInRange
  refine State.ringWrite_eq_some.2 ⟨?_, ?_⟩
  · rw [show s.ringCount = 0 from h.ringDrained]
    exact Nat.zero_le _
  · rw [List.length_nil, Nat.add_zero, Nat.mod_eq_of_lt hwr]
    rfl

end

/-- Settles O21: RECEIVE completes, keeping the invariant and with it an empty ring; an empty burst is drained at once. -/
theorem receiveCompletesWithAtMostOnePacket : Obligations.ReceiveCompletesWithAtMostOnePacket := by
  refine fun s data h hv => ⟨?_, ?_⟩
  · obtain ⟨t, packets, hnext, hone, hout, hparams⟩ := h.exists_exec_receive hv data
    obtain ⟨hcmd, hreset⟩ := exec_inputs hnext
    exact ⟨t, packets, hnext, hone, hout, (h.exec hnext).ringDrained, exec_cfg hv hnext, hparams, hcmd, hreset⟩
  · rintro rfl
    exact execReceive_eq_next.2 (.inr (.inr ⟨hv, s, s, h.ringWrite_nil, drain_of_empty h.ringDrained _, rfl⟩))

end Sys2Proof.Machine
end

section
/-! What holds of all six commands: a step runs the one it decodes (46_commands.md R200), and one that fails changes nothing
(R202). -/

namespace Sys2Proof.Machine

section
variable {s t : State} {i : Instr}

theorem step_of_command {rest : List Byte} (hr : s.resetLine = false) (hf : s.fetch = .command i rest) :
    step s = exec i (s.consumeTo rest) := by
  simp only [step, hr, hf, Bool.false_eq_true, if_false]

/-- A command answers with a code and does nothing else, or its response is OK, without or with a value. -/
theorem exec_responds_only_or_ok (h : exec i s = .next t) :
    (∃ c, t = s.respond c) ∨ t.outputs.getLast? = some (.response (.code .ok)) ∨
      ∃ v, t.outputs.getLast? = some (.response (.value v)) := by
  cases i with
  | configure chan lf tf rsv mk =>
    rcases execConfigure_eq_next.1 h with ⟨-, rfl⟩ | ⟨-, -, rfl⟩ | ⟨-, -, rfl⟩
    · exact .inl ⟨_, rfl⟩
    · exact .inl ⟨_, rfl⟩
    · exact .inr (.inl List.getLast?_concat)
  | receive data =>
    rcases execReceive_eq_next.1 h with ⟨-, rfl⟩ | ⟨-, -, rfl⟩ | ⟨-, s1, s2, -, -, rfl⟩
    · exact .inl ⟨_, rfl⟩
    · exact .inr (.inl List.getLast?_concat)
    · exact .inr (.inl List.getLast?_concat)
  | send type p =>
    rcases execSend_eq_next.1 h with ⟨-, rfl⟩ | ⟨-, -, rfl⟩ | ⟨-, frame, -, rfl⟩
    · exact .inl ⟨_, rfl⟩
    · exact .inl ⟨_, rfl⟩
    · exact .inr (.inl List.getLast?_concat)
  | resync =>
    rcases execResync_eq_next.1 h with ⟨-, rfl⟩ | ⟨-, rfl⟩
    · exact .inl ⟨_, rfl⟩
    · exact .inr (.inl List.getLast?_concat)
  | readReg n =>
    rcases execReadReg_eq_next.1 h with ⟨-, rfl⟩ | ⟨r, -, rfl⟩
    · exact .inl ⟨_, rfl⟩
    · exact .inr (.inr ⟨_, List.getLast?_concat⟩)
  | clearStatus =>
    cases execClearStatus_eq_next.1 h
    exact .inr (.inl List.getLast?_concat)

end

/-- Settles O7, by the step's last case. -/
theorem stepRunsDecodedCommand : Obligations.StepRunsDecodedCommand := fun _ _ _ => step_of_command

/-- Settles O25: a command whose last record is an error code has only responded. -/
theorem failedCommandChangesNothing : Obligations.FailedCommandChangesNothing := by
  refine ⟨fun i s t events c h hout hc => ?_, fun op s => rfl⟩
  have hlast : t.outputs.getLast? = some (.response (.code c)) := by rw [hout, List.getLast?_concat]
  rcases exec_responds_only_or_ok h with ⟨c', rfl⟩ | hok | ⟨v, hvalue⟩
  · cases hlast.symm.trans List.getLast?_concat
    rfl
  · cases hlast.symm.trans hok
    exact absurd rfl hc
  · cases hlast.symm.trans hvalue

end Sys2Proof.Machine
end

section
/-! No exception is final, and none leaves its engine (60_exceptions.md R248, R262, R263): every command and every step of an
engine of the invariant answers, a frame in progress ends, and a command reaches the engine it is addressed to only. -/

namespace Sys2Proof.Machine

/-! ## Every step answers -/

section
variable {s : State}

/-- From the invariant every command goes on: RECEIVE absorbs its burst or recovers, and the others neither fault nor refuse. -/
theorem State.Inv.exists_exec_eq_next (h : s.Inv) (i : Instr) : ∃ t, Machine.exec i s = .next t := by
  cases i with
  | configure chan lf tf rsv mk =>
    simp only [Machine.exec, execConfigure]
    split_ifs <;> exact ⟨_, rfl⟩
  | receive data =>
    cases hv : s.cfg.valid with
    | false => exact ⟨_, execReceive_eq_next.2 (.inl ⟨hv, rfl⟩)⟩
    | true =>
      obtain ⟨t, -, hnext, -⟩ := h.exists_exec_receive hv data
      exact ⟨t, hnext⟩
  | send type payload =>
    simp only [Machine.exec, execSend]
    split
    · split <;> exact ⟨_, rfl⟩
    · exact ⟨_, rfl⟩
  | resync =>
    simp only [Machine.exec, execResync]
    split <;> exact ⟨_, rfl⟩
  | readReg n =>
    simp only [Machine.exec, execReadReg]
    split <;> exact ⟨_, rfl⟩
  | clearStatus => exact ⟨_, rfl⟩

end

/-- Settles O52: the reset, a wait and an illegal opcode always answer, and a command does from the invariant. -/
theorem stepAlwaysAnswers : Obligations.StepAlwaysAnswers := by
  intro s h
  cases hr : s.resetLine with
  | true => exact ⟨_, step_eq_next.2 (.inl ⟨hr, rfl⟩)⟩
  | false =>
    cases hf : s.fetch with
    | incomplete => exact ⟨_, step_eq_next.2 (.inr ⟨hr, .inl ⟨hf, rfl⟩⟩)⟩
    | illegal op rest => exact ⟨_, step_eq_next.2 (.inr ⟨hr, .inr (.inl ⟨op, rest, hf, rfl⟩)⟩)⟩
    | command i rest =>
      rw [step_of_command hr hf]
      exact (h.consumeTo rest).exists_exec_eq_next i

/-! ## A frame in progress ends -/

/-- The header bytes received are at most as many as the phases gone by (10_state.md R27). -/
theorem Frame.length_headerBytes_le (f : Frame) : f.headerBytes.length ≤ f.phase.code.toNat := by
  have hvarint (v : Nat) : (wireVarint v).length ≤ 2 := by
    rw [length_wireVarint]
    split <;> decide
  have hlen := hvarint f.rxLen.toNat
  have htype := hvarint f.rxType.toNat
  have hcs : (csBytes f.rxLen.toNat f.rxCsx).length ≤ 2 := by
    unfold csBytes
    split_ifs <;> simp
  unfold Frame.headerBytes
  cases f.phase
  all_goals
    simp only [Phase.code, BitVec.toNat_ofNat, List.length_append, List.length_singleton, List.length_nil]
    omega

section
variable {s : State} {done : List Byte}

/-- The end of a RECEIVE adds nothing to what is received. -/
theorem State.HasReceived.withRing_respond (hr : s.HasReceived done) (r : RingBuffer) (c : ResponseCode) :
    ((s.withRing r).respond c).HasReceived done := by
  obtain ⟨hm, got, ⟨hcount, hstored⟩, hdone⟩ := hr
  exact ⟨hm, got, ⟨hcount, hstored⟩, hdone⟩

/-- IN_FRAME fewer than six header bytes and MAX_PAYLOAD payload bytes are received: payload bytes are counted in the last
phase only, and there at least one is missing (10_state.md R40). -/
theorem State.ByteInv.length_lt_of_hasReceived (h : s.ByteInv) (hr : s.HasReceived done) :
    done.length < 6 + s.params.maxPayload := by
  obtain ⟨hm, got, hg, rfl⟩ := hr
  have hhead := s.frame.length_headerBytes_le
  obtain ⟨hshape, -⟩ := frameShape_and_fieldsAsReceived_iff.2 h.frameFits
  obtain ⟨-, -, hlen, -, -, hmissing, hnone⟩ := hshape hm
  have hphase : s.frame.phase = .payload ∨ s.frame.phase.code < Phase.payload.code := by
    cases s.frame.phase <;> decide
  rw [List.length_append, hg.count]
  rcases hphase with hp | hp
  · obtain ⟨hmax, -⟩ := hlen (by rw [hp]; decide)
    have hcount := hmissing hp
    rw [hp, show Phase.payload.code.toNat = 6 from rfl] at hhead
    omega
  · have hcode : s.frame.phase.code.toNat < 6 := hp
    rw [hnone hp, show (0 : Word).toNat = 0 from rfl]
    omega

/-- The bytes that complete a frame's worth, one a burst, end the frame in progress: each is received until it has ended. -/
theorem State.Inv.exists_runCommands_hunting (h : s.Inv) (hv : s.cfg.valid = true) (hr : s.HasReceived done)
    {bytes : List Byte} (hl : 6 + s.params.maxPayload ≤ done.length + bytes.length) :
    ∃ k t, k ≤ bytes.length ∧ runCommands (receiveEach (bytes.take k)) s = .next t ∧ t.sync.mode = .hunting := by
  induction bytes generalizing s done with
  | nil => exact absurd ((h.byteInv hv).length_lt_of_hasReceived hr) (Nat.not_lt.2 hl)
  | cons b bytes ih =>
    have hb := h.byteInv hv
    obtain ⟨a, ha⟩ := hb.exists_decodeStep_eq_ok hr.mode b
    have hnext := h.exec_receive_oneByte hv hr.mode ha
    have hfirst : a.sync.mode = .hunting → ∃ k t, k ≤ (b :: bytes).length ∧
        runCommands (receiveEach ((b :: bytes).take k)) s = .next t ∧ t.sync.mode = .hunting := fun hunt =>
      ⟨1, _, by simp, runCommands_cons_eq_next.2 ⟨_, hnext, rfl⟩, hunt⟩
    cases hb.frameOutcome_decodeStep hr ha with
    | fails hunt => exact hfirst (hunt rfl)
    | delivers hunt => exact hfirst (hunt rfl)
    | goesOn hr' _ =>
      have hparams : a.params = s.params := (absorb_params_cfg (absorb_oneByte hr.mode ha)).1
      obtain ⟨k, t, hk, hrun, hunt⟩ := ih (h.exec hnext) (exec_cfg hv hnext ▸ hv) (hr'.withRing_respond _ _)
        (show 6 + a.params.maxPayload ≤ _ by simpa [hparams, Nat.add_assoc, Nat.add_comm 1] using hl)
      exact ⟨k + 1, t, Nat.succ_le_succ hk, runCommands_cons_eq_next.2 ⟨_, hnext, hrun⟩, hunt⟩

end

/-- Settles O49: what is received of a frame in progress is less than a frame's worth, and each byte adds to it. -/
theorem everyFrameEnds : Obligations.EveryFrameEnds := by
  intro s bytes h hv hm hl
  obtain ⟨done, hr⟩ := (h.byteInv hv).exists_hasReceived hm
  exact h.exists_runCommands_hunting hv hr (hl ▸ Nat.le_add_left _ _)

/-! ## Engines side by side -/

/-- A command addressed to an engine goes on where it would alone, and sets that engine's place (60_exceptions.md R262). -/
theorem execOn_eq_next {sys after : List State} {k : Fin sys.length} {i : Instr} :
    execOn sys k i = .next after ↔ ∃ t, exec i (sys.get k) = .next t ∧ after = sys.set k t := by
  unfold execOn
  cases exec i (sys.get k) <;> simp [eq_comm]

/-- Settles O59: setting one place of a list keeps its length and every other place. -/
theorem enginesAreIsolated : Obligations.EnginesAreIsolated := by
  intro sys after k i h
  obtain ⟨t, ht, rfl⟩ := execOn_eq_next.1 h
  exact ⟨List.length_set, ⟨t, ht, List.getElem?_set_self k.isLt⟩, fun j hj => List.getElem?_set_ne hj.symm⟩

end Sys2Proof.Machine
end

section
/-! Hardware reset (70_reset_and_hazards.md R270): what the registers read after it. -/

namespace Sys2Proof.Machine

/-- Hardware reset leaves in every register but the two parameters what State.reset has there (10_state.md R32, R42):
RING_COUNT is 0 for any capacity, as the cursors are equal. -/
theorem State.regValue_hardReset (s : State) {r : RegName} (hcap : r ≠ .ringCap) (hmax : r ≠ .payloadMax) :
    s.hardReset.regValue r = State.reset.regValue r := by
  cases r with
  | ringCap => exact absurd rfl hcap
  | payloadMax => exact absurd rfl hmax
  | ringCount =>
    have hs : s.hardReset.ringCount = 0 := State.ringCount_eq_zero_of_eq rfl
    exact congrArg (BitVec.ofNat 16) hs
  | _ => rfl

/-- Settles O11: the step is hardware reset, and its registers read as in State.reset. -/
theorem assertedResetIsTakenNext : Obligations.AssertedResetIsTakenNext := by
  intro s hr
  obtain ⟨-, -, -, -, -, -, -, -, hzero⟩ := resetValues
  exact ⟨s.hardReset, step_eq_next.2 (.inl ⟨hr, rfl⟩), rfl, rfl, rfl, rfl, rfl, rfl, rfl, rfl, rfl, rfl, rfl, rfl,
    fun r hcap hmax => (s.regValue_hardReset hcap hmax).trans (hzero r hcap hmax)⟩

end Sys2Proof.Machine
end
